-- ==== Sys2Proof/Word.lean ====
section
/-! DEFINITION. The word types of CORE and the plainest arithmetic on them (spec/00_scope.md R7, spec/10_state.md). -/

namespace Sys2Proof

/-- One byte: a general register, a timer, a memory cell (10_state.md R20, R25; 20_memory.md R50). -/
abbrev Byte := BitVec 8

/-- Sixteen bits: `I`, `pc`, a stack entry, an instruction word (10_state.md R22 to R24; 30_encoding.md R70). -/
abbrev Word := BitVec 16

/-- The operand `nnn`, a 12-bit address (30_encoding.md R71). -/
abbrev Addr12 := BitVec 12

/-- A register number `x` or `y`: every value of the 4-bit field is valid (10_state.md R20). -/
abbrev RegIdx := Fin 16

/-- `zext_16` of a byte (00_scope.md R7). -/
def zext16 (b : Byte) : Word := b.setWidth 16

/-- `zext_16` of a 12-bit address (00_scope.md R7, 30_encoding.md R73). -/
def zextAddr (a : Addr12) : Word := a.setWidth 16

/-- Two bytes as one word, the first byte the high one (20_memory.md R52). -/
def wordOfBytes (hi lo : Byte) : Word := hi ++ lo

@[simp] theorem zext16_toNat (b : Byte) : (zext16 b).toNat = b.toNat := by
  simp only [zext16, BitVec.toNat_setWidth]
  omega

@[simp] theorem zextAddr_toNat (a : Addr12) : (zextAddr a).toNat = a.toNat := by
  simp only [zextAddr, BitVec.toNat_setWidth]
  omega

end Sys2Proof
end

