-- ==== Sys2Proof/Syntax.lean ====
section
/-! DEFINITION. The instruction set: one constructor for each of the 36 rows of spec/opcode_table.json
(spec/30_encoding.md R75). -/

namespace Sys2Proof

/-- The 36 instructions (30_encoding.md R75), in the table's order.
`x`, `y` are register numbers, `kk` a byte, `nnn` a 12-bit address, `n` a count of sprite rows (R71). -/
inductive Instr where
  | halt                              -- 0000
  | cls                               -- 00E0
  | ret                               -- 00EE
  | sys (nnn : Addr12)                -- 0nnn, but for the three words above
  | jp (nnn : Addr12)                 -- 1nnn
  | call (nnn : Addr12)               -- 2nnn
  | seImm (x : RegIdx) (kk : Byte)    -- 3xkk
  | sneImm (x : RegIdx) (kk : Byte)   -- 4xkk
  | seReg (x y : RegIdx)              -- 5xy0
  | ldImm (x : RegIdx) (kk : Byte)    -- 6xkk
  | addImm (x : RegIdx) (kk : Byte)   -- 7xkk
  | ldReg (x y : RegIdx)              -- 8xy0
  | or (x y : RegIdx)                 -- 8xy1
  | and (x y : RegIdx)                -- 8xy2
  | xor (x y : RegIdx)                -- 8xy3
  | addReg (x y : RegIdx)             -- 8xy4
  | sub (x y : RegIdx)                -- 8xy5
  | shr (x y : RegIdx)                -- 8xy6, y encoded and ignored
  | subn (x y : RegIdx)               -- 8xy7
  | shl (x y : RegIdx)                -- 8xyE, y encoded and ignored
  | sneReg (x y : RegIdx)             -- 9xy0
  | ldI (nnn : Addr12)                -- Annn
  | jpV0 (nnn : Addr12)               -- Bnnn
  | rnd (x : RegIdx) (kk : Byte)      -- Cxkk
  | drw (x y : RegIdx) (n : Fin 16)   -- Dxyn
  | skp (x : RegIdx)                  -- Ex9E
  | sknp (x : RegIdx)                 -- ExA1
  | ldVxDt (x : RegIdx)               -- Fx07
  | ldVxK (x : RegIdx)                -- Fx0A
  | ldDtVx (x : RegIdx)               -- Fx15
  | ldStVx (x : RegIdx)               -- Fx18
  | addI (x : RegIdx)                 -- Fx1E
  | ldF (x : RegIdx)                  -- Fx29
  | ldB (x : RegIdx)                  -- Fx33
  | ldMemVx (x : RegIdx)              -- Fx55
  | ldVxMem (x : RegIdx)              -- Fx65
  deriving DecidableEq, Repr

end Sys2Proof
end

