-- ==== Sys2Proof/WellFormed.lean ====
section
/-! DEFINITION. Which terms of `Instr` are instructions the table has (spec/30_encoding.md R74, R75). -/

namespace Sys2Proof

/-- The operand types admit every register number, byte, address and count.
The one check left is the table's exception: `0nnn` is SYS for every `nnn` but those of HALT, CLS and RET
(30_encoding.md R75 row 4; 90_conflicts.md C5). -/
def Instr.wellFormed : Instr → Bool
  | .sys nnn => nnn != 0x000#12 && nnn != 0x0E0#12 && nnn != 0x0EE#12
  | .halt | .cls | .ret | .jp _ | .call _ | .seImm _ _ | .sneImm _ _ | .seReg _ _ | .ldImm _ _ | .addImm _ _
  | .ldReg _ _ | .or _ _ | .and _ _ | .xor _ _ | .addReg _ _ | .sub _ _ | .shr _ _ | .subn _ _ | .shl _ _
  | .sneReg _ _ | .ldI _ | .jpV0 _ | .rnd _ _ | .drw _ _ _ | .skp _ | .sknp _ | .ldVxDt _ | .ldVxK _
  | .ldDtVx _ | .ldStVx _ | .addI _ | .ldF _ | .ldB _ | .ldMemVx _ | .ldVxMem _ => true

end Sys2Proof
end

