-- ==== Sys2Proof/Decode.lean ====
section
/-! DEFINITION. The decoder, total on any bytes, and the encoder (spec/30_encoding.md R70 to R78). -/

namespace Sys2Proof

/-- Why bytes are no instruction. -/
inductive DecodeError where
  /-- Fewer than two bytes: an instruction is always two (30_encoding.md R70). -/
  | truncated
  /-- The word matches no row of the opcode map (30_encoding.md R76). -/
  | unknown (w : Word)
  deriving DecidableEq, Repr

/-! ## Fields (30_encoding.md R71) -/

/-- `op = w[15:12]`. -/
def fieldOp (w : Word) : BitVec 4 := w.extractLsb' 12 4

/-- `x = w[11:8]`, as a register number. -/
def fieldX (w : Word) : RegIdx := (w.extractLsb' 8 4).toFin

/-- `y = w[7:4]`, as a register number. -/
def fieldY (w : Word) : RegIdx := (w.extractLsb' 4 4).toFin

/-- `n = w[3:0]`, a count or sub-opcode. -/
def fieldN (w : Word) : Fin 16 := (w.extractLsb' 0 4).toFin

/-- `kk = w[7:0]`. -/
def fieldKk (w : Word) : Byte := w.extractLsb' 0 8

/-- `nnn = w[11:0]`. -/
def fieldNnn (w : Word) : Addr12 := w.extractLsb' 0 12

/-! ## The decoder (30_encoding.md R74) -/

/-- `op = 0`: the three fixed words come before SYS (90_conflicts.md C5). -/
def decodeOp0 (w : Word) : Except DecodeError Instr :=
  if w = 0x0000#16 then .ok .halt
  else if w = 0x00E0#16 then .ok .cls
  else if w = 0x00EE#16 then .ok .ret
  else .ok (.sys (fieldNnn w))

/-- `op = 8`: the operation is chosen by `n` (43_alu.md R130 (a); 92_eei_decisions.md D10). -/
def decodeOp8 (w : Word) : Except DecodeError Instr :=
  match (fieldN w).val with
  | 0x0 => .ok (.ldReg (fieldX w) (fieldY w))
  | 0x1 => .ok (.or (fieldX w) (fieldY w))
  | 0x2 => .ok (.and (fieldX w) (fieldY w))
  | 0x3 => .ok (.xor (fieldX w) (fieldY w))
  | 0x4 => .ok (.addReg (fieldX w) (fieldY w))
  | 0x5 => .ok (.sub (fieldX w) (fieldY w))
  | 0x6 => .ok (.shr (fieldX w) (fieldY w))
  | 0x7 => .ok (.subn (fieldX w) (fieldY w))
  | 0xE => .ok (.shl (fieldX w) (fieldY w))
  | _ => .error (.unknown w)

/-- `op = E`: the operation is chosen by `kk`. -/
def decodeOpE (w : Word) : Except DecodeError Instr :=
  match (fieldKk w).toNat with
  | 0x9E => .ok (.skp (fieldX w))
  | 0xA1 => .ok (.sknp (fieldX w))
  | _ => .error (.unknown w)

/-- `op = F`: the operation is chosen by `kk`. -/
def decodeOpF (w : Word) : Except DecodeError Instr :=
  match (fieldKk w).toNat with
  | 0x07 => .ok (.ldVxDt (fieldX w))
  | 0x0A => .ok (.ldVxK (fieldX w))
  | 0x15 => .ok (.ldDtVx (fieldX w))
  | 0x18 => .ok (.ldStVx (fieldX w))
  | 0x1E => .ok (.addI (fieldX w))
  | 0x29 => .ok (.ldF (fieldX w))
  | 0x33 => .ok (.ldB (fieldX w))
  | 0x55 => .ok (.ldMemVx (fieldX w))
  | 0x65 => .ok (.ldVxMem (fieldX w))
  | _ => .error (.unknown w)

/-- Decode is a function of the 16-bit word alone (30_encoding.md R74). -/
def decodeWord (w : Word) : Except DecodeError Instr :=
  match (fieldOp w).toNat with
  | 0x0 => decodeOp0 w
  | 0x1 => .ok (.jp (fieldNnn w))
  | 0x2 => .ok (.call (fieldNnn w))
  | 0x3 => .ok (.seImm (fieldX w) (fieldKk w))
  | 0x4 => .ok (.sneImm (fieldX w) (fieldKk w))
  | 0x5 => if fieldN w = 0 then .ok (.seReg (fieldX w) (fieldY w)) else .error (.unknown w)
  | 0x6 => .ok (.ldImm (fieldX w) (fieldKk w))
  | 0x7 => .ok (.addImm (fieldX w) (fieldKk w))
  | 0x8 => decodeOp8 w
  | 0x9 => if fieldN w = 0 then .ok (.sneReg (fieldX w) (fieldY w)) else .error (.unknown w)
  | 0xA => .ok (.ldI (fieldNnn w))
  | 0xB => .ok (.jpV0 (fieldNnn w))
  | 0xC => .ok (.rnd (fieldX w) (fieldKk w))
  | 0xD => .ok (.drw (fieldX w) (fieldY w) (fieldN w))
  | 0xE => decodeOpE w
  | _ => decodeOpF w

/-- The decoder on bytes in memory order: the byte at the lower address is the high byte (20_memory.md R52).
It answers the instruction and the bytes after it. -/
def decode : List Byte → Except DecodeError (Instr × List Byte)
  | hi :: lo :: rest => (decodeWord (wordOfBytes hi lo)).map fun i => (i, rest)
  | _ => .error .truncated

/-! ## The encoder, from the formats of 30_encoding.md R72 -/

/-- A register number or count as its 4-bit field. -/
def nibble (x : Fin 16) : BitVec 4 := BitVec.ofFin x

/-- Format A: `op nnn`. -/
def wordA (op : BitVec 4) (nnn : Addr12) : Word := op ++ nnn

/-- Format XK: `op x kk`. -/
def wordXK (op : BitVec 4) (x : RegIdx) (kk : Byte) : Word := (op ++ nibble x) ++ kk

/-- Formats XY and XYN: `op x y sub` and `op x y n`. -/
def wordXY (op : BitVec 4) (x y n : Fin 16) : Word := (op ++ nibble x) ++ (nibble y ++ nibble n)

/-- The word of an instruction (30_encoding.md R75). -/
def encode : Instr → Word
  | .halt => 0x0000#16
  | .cls => 0x00E0#16
  | .ret => 0x00EE#16
  | .sys nnn => wordA 0x0#4 nnn
  | .jp nnn => wordA 0x1#4 nnn
  | .call nnn => wordA 0x2#4 nnn
  | .seImm x kk => wordXK 0x3#4 x kk
  | .sneImm x kk => wordXK 0x4#4 x kk
  | .seReg x y => wordXY 0x5#4 x y 0x0
  | .ldImm x kk => wordXK 0x6#4 x kk
  | .addImm x kk => wordXK 0x7#4 x kk
  | .ldReg x y => wordXY 0x8#4 x y 0x0
  | .or x y => wordXY 0x8#4 x y 0x1
  | .and x y => wordXY 0x8#4 x y 0x2
  | .xor x y => wordXY 0x8#4 x y 0x3
  | .addReg x y => wordXY 0x8#4 x y 0x4
  | .sub x y => wordXY 0x8#4 x y 0x5
  | .shr x y => wordXY 0x8#4 x y 0x6
  | .subn x y => wordXY 0x8#4 x y 0x7
  | .shl x y => wordXY 0x8#4 x y 0xE
  | .sneReg x y => wordXY 0x9#4 x y 0x0
  | .ldI nnn => wordA 0xA#4 nnn
  | .jpV0 nnn => wordA 0xB#4 nnn
  | .rnd x kk => wordXK 0xC#4 x kk
  | .drw x y n => wordXY 0xD#4 x y n
  | .skp x => wordXK 0xE#4 x 0x9E#8
  | .sknp x => wordXK 0xE#4 x 0xA1#8
  | .ldVxDt x => wordXK 0xF#4 x 0x07#8
  | .ldVxK x => wordXK 0xF#4 x 0x0A#8
  | .ldDtVx x => wordXK 0xF#4 x 0x15#8
  | .ldStVx x => wordXK 0xF#4 x 0x18#8
  | .addI x => wordXK 0xF#4 x 0x1E#8
  | .ldF x => wordXK 0xF#4 x 0x29#8
  | .ldB x => wordXK 0xF#4 x 0x33#8
  | .ldMemVx x => wordXK 0xF#4 x 0x55#8
  | .ldVxMem x => wordXK 0xF#4 x 0x65#8

/-- A word as its two bytes in memory order, high byte first (20_memory.md R52; 30_encoding.md R71). -/
def bytesOfWord (w : Word) : List Byte := [w.extractLsb' 8 8, w.extractLsb' 0 8]

/-- The bytes of an instruction as they lie in memory. -/
def encodeBytes (i : Instr) : List Byte := bytesOfWord (encode i)

/-! ## The opcode map as a table (30_encoding.md R75) -/

/-- One row of the opcode map: a word matches it when `(w & mask) == pattern`. -/
structure OpcodeRow where
  mnemonic : String
  pattern : Word
  mask : Word
  deriving DecidableEq, Repr

/-- Rows 1 to 11 of 30_encoding.md R75. -/
def opcodeRows1 : List OpcodeRow :=
  [⟨"HALT", 0x0000, 0xFFFF⟩, ⟨"CLS", 0x00E0, 0xFFFF⟩, ⟨"RET", 0x00EE, 0xFFFF⟩, ⟨"SYS", 0x0000, 0xF000⟩,
   ⟨"JP", 0x1000, 0xF000⟩, ⟨"CALL", 0x2000, 0xF000⟩, ⟨"SE_IMM", 0x3000, 0xF000⟩, ⟨"SNE_IMM", 0x4000, 0xF000⟩,
   ⟨"SE_REG", 0x5000, 0xF00F⟩, ⟨"LD_IMM", 0x6000, 0xF000⟩, ⟨"ADD_IMM", 0x7000, 0xF000⟩]

/-- Rows 12 to 25. -/
def opcodeRows2 : List OpcodeRow :=
  [⟨"LD_REG", 0x8000, 0xF00F⟩, ⟨"OR", 0x8001, 0xF00F⟩, ⟨"AND", 0x8002, 0xF00F⟩, ⟨"XOR", 0x8003, 0xF00F⟩,
   ⟨"ADD_REG", 0x8004, 0xF00F⟩, ⟨"SUB", 0x8005, 0xF00F⟩, ⟨"SHR", 0x8006, 0xF00F⟩, ⟨"SUBN", 0x8007, 0xF00F⟩,
   ⟨"SHL", 0x800E, 0xF00F⟩, ⟨"SNE_REG", 0x9000, 0xF00F⟩, ⟨"LD_I", 0xA000, 0xF000⟩, ⟨"JP_V0", 0xB000, 0xF000⟩,
   ⟨"RND", 0xC000, 0xF000⟩, ⟨"DRW", 0xD000, 0xF000⟩]

/-- Rows 26 to 36. -/
def opcodeRows3 : List OpcodeRow :=
  [⟨"SKP", 0xE09E, 0xF0FF⟩, ⟨"SKNP", 0xE0A1, 0xF0FF⟩, ⟨"LD_VX_DT", 0xF007, 0xF0FF⟩, ⟨"LD_VX_K", 0xF00A, 0xF0FF⟩,
   ⟨"LD_DT_VX", 0xF015, 0xF0FF⟩, ⟨"LD_ST_VX", 0xF018, 0xF0FF⟩, ⟨"ADD_I", 0xF01E, 0xF0FF⟩, ⟨"LD_F", 0xF029, 0xF0FF⟩,
   ⟨"LD_B", 0xF033, 0xF0FF⟩, ⟨"LD_MEM_VX", 0xF055, 0xF0FF⟩, ⟨"LD_VX_MEM", 0xF065, 0xF0FF⟩]

/-- The whole opcode map, 36 rows in the table's order. -/
def opcodeMap : List OpcodeRow := opcodeRows1 ++ opcodeRows2 ++ opcodeRows3

/-- A word matches a row (30_encoding.md R75); the exception of row 4 is the decoder's order (R74). -/
def OpcodeRow.fits (r : OpcodeRow) (w : Word) : Bool := w &&& r.mask == r.pattern

/-- The place in `opcodeMap` of an instruction's row, counted from 0. -/
def Instr.rowNumber : Instr → Nat
  | .halt => 0 | .cls => 1 | .ret => 2 | .sys _ => 3 | .jp _ => 4 | .call _ => 5 | .seImm _ _ => 6 | .sneImm _ _ => 7
  | .seReg _ _ => 8 | .ldImm _ _ => 9 | .addImm _ _ => 10 | .ldReg _ _ => 11 | .or _ _ => 12 | .and _ _ => 13
  | .xor _ _ => 14 | .addReg _ _ => 15 | .sub _ _ => 16 | .shr _ _ => 17 | .subn _ _ => 18 | .shl _ _ => 19
  | .sneReg _ _ => 20 | .ldI _ => 21 | .jpV0 _ => 22 | .rnd _ _ => 23 | .drw _ _ _ => 24 | .skp _ => 25 | .sknp _ => 26
  | .ldVxDt _ => 27 | .ldVxK _ => 28 | .ldDtVx _ => 29 | .ldStVx _ => 30 | .addI _ => 31 | .ldF _ => 32 | .ldB _ => 33
  | .ldMemVx _ => 34 | .ldVxMem _ => 35

/-! ## The host's question -/

/-- The instruction the decoder reads from the word `w` of `nbits` bits, numbered as spec/opcode_table.json numbers
them: the bits above `nbits` are 0, the word lies in memory high byte first, and the decoder reads those bytes. -/
def decodeTableWord (nbits w : Nat) : Option Instr :=
  match decode (bytesOfWord (BitVec.ofNat 16 (w % 2 ^ nbits))) with
  | .ok (i, _) => some i
  | .error _ => none

end Sys2Proof
end

