-- ==== Sys2Proof/Config.lean ====
section
/-! DEFINITION. What is fixed for one machine and what is free: the parameters of spec/00_scope.md R5. -/

namespace Sys2Proof

/-- The two parameters the spec leaves to the model as arguments (00_scope.md R5; 92_eei_decisions.md D13, D20).
A state carries them as constants, so a statement about every state holds for every value of them.
`STRICT` is fixed to false and has no field (92_eei_decisions.md D31). -/
structure Config where
  /-- `FX29_BASE`, the base added by `Fx29` (44_index_memory.md R152; 90_conflicts.md C1). -/
  fx29Base : Word
  /-- `FONT[0]` to `FONT[79]` (70_reset_and_hazards.md R232). -/
  font : Vector Byte 80
  deriving DecidableEq, Repr

/-- FREE VALUE. `Config.rnd n` is the byte the environment presents at the n-th sample of the input `rnd`
(10_state.md R32; 42_immediate_random.md R122; 92_eei_decisions.md D19: "a draw under no law").
It has no body: nothing can be proved about its value. DESIGN CHOICE, log entry 4 (safe). -/
opaque Config.rnd : Nat → Byte

end Sys2Proof
end

