-- ==== Sys2Proof/Machine/Defaults.lean ====
section
/-! DEFINITION. The default values of the two parameters (spec/00_scope.md R5). -/

namespace Sys2Proof.Machine

/-- `FX29_BASE`: "default `0x000`" (44_index_memory.md R152, 90_conflicts.md C1, 92_eei_decisions.md D13).
Log entry 3: a claim that reads this value is unsafe, one that holds for every `Config` is not. -/
def defaultFx29Base : Word := 0x000

/-- The customary font: the default of 70_reset_and_hazards.md R232, which the spec marks as general knowledge and not
in its source (92_eei_decisions.md D20). PRESUMED, log entry 2 (unsafe for a claim that reads these bytes).
One line for two glyphs, digits 0 to F, five bytes each. -/
def defaultFont : Vector Byte 80 :=
  #v[0xF0, 0x90, 0x90, 0x90, 0xF0, 0x20, 0x60, 0x20, 0x20, 0x70,
     0xF0, 0x10, 0xF0, 0x80, 0xF0, 0xF0, 0x10, 0xF0, 0x10, 0xF0,
     0x90, 0x90, 0xF0, 0x10, 0x10, 0xF0, 0x80, 0xF0, 0x10, 0xF0,
     0xF0, 0x80, 0xF0, 0x90, 0xF0, 0xF0, 0x10, 0x20, 0x40, 0x40,
     0xF0, 0x90, 0xF0, 0x90, 0xF0, 0xF0, 0x90, 0xF0, 0x10, 0xF0,
     0xF0, 0x90, 0xF0, 0x90, 0x90, 0xE0, 0x90, 0xE0, 0x90, 0xE0,
     0xF0, 0x80, 0x80, 0x80, 0xF0, 0xE0, 0x90, 0x90, 0x90, 0xE0,
     0xF0, 0x80, 0xF0, 0x80, 0xF0, 0xF0, 0x80, 0xF0, 0x80, 0x80]

/-- The configuration of `State.reset`. -/
def defaultConfig : Config := { fx29Base := defaultFx29Base, font := defaultFont }

end Sys2Proof.Machine
end

