-- ==== Sys2Proof/Machine/State.lean ====
section
/-! DEFINITION. The state of CORE (spec/10_state.md R20 to R30), its errors, and the state after reset. -/

namespace Sys2Proof.Machine

/-- The bytes that differ from the reset contents, as (address, byte) pairs with strictly rising addresses. -/
abbrev Memory := List Host.Cell

/-- The framebuffer: 32 rows of 64 one-bit pixels, row-major (10_state.md R27).
Pixel `(x, y)`, the spec's `fb[x + 64 * y]`, is bit `x` of row `y`. -/
abbrev Framebuffer := Vector (BitVec 64) 32

/-- Everything the spec gives the machine (10_state.md R29: it has no other state), and two fields of the model's own. -/
structure State where
  /-- `V[0]` to `V[15]`; `V[15]` is also the flag VF (10_state.md R20, R21). -/
  V : Vector Byte 16
  /-- The index register (10_state.md R22). -/
  I : Word
  /-- The program counter (10_state.md R23). -/
  pc : Word
  /-- The count of call-stack entries in use, 0 to 16 (10_state.md R24; 92_eei_decisions.md D7). -/
  sp : Fin 17
  /-- `stack[0]` to `stack[15]` (10_state.md R24). -/
  stack : Vector Word 16
  /-- The delay timer (10_state.md R25). -/
  DT : Byte
  /-- The sound timer (10_state.md R25). -/
  ST : Byte
  /-- The 4096-byte memory (10_state.md R26), as its difference from the reset contents. -/
  mem : Memory
  /-- The framebuffer (10_state.md R27). -/
  fb : Framebuffer
  /-- `key[0]` to `key[15]`, true for pressed (10_state.md R28). -/
  key : Vector Bool 16
  /-- MODEL'S OWN: the parameters of 00_scope.md R5, constant for the machine (log entry 1). -/
  cfg : Config
  /-- MODEL'S OWN: how many random bytes have been consumed, the argument of `Config.rnd` (log entry 4). -/
  draws : Nat
  deriving DecidableEq, Repr

/-- The six causes of `OutOfBounds` (60_exceptions.md R202). -/
inductive Cause where
  /-- Any `cycle` with `pc >= 0xFFF` (30_encoding.md R81). -/
  | fetch
  /-- CALL with `sp = 16` (40_control_transfer.md R104). -/
  | stackOverflow
  /-- RET with `sp = 0` (40_control_transfer.md R101). -/
  | stackUnderflow
  /-- DRW, LD_B, LD_MEM_VX, LD_VX_MEM past `0xFFF` (45_display.md R171; 44_index_memory.md R153 to R155). -/
  | data
  /-- SKP, SKNP with `V[x] > 15` (46_keypad_timers.md R180, R181). -/
  | keyIndex
  /-- `load_program` of more than `0xE00` bytes (70_reset_and_hazards.md R233); never raised by a step. -/
  | image
  deriving DecidableEq, Repr

/-- CORE's two error classes (60_exceptions.md R200). Each is the spec's own error, so stopping there is what the
hardware does: safe. The state is the one before the operation (R203): `operate` keeps it. -/
inductive Fault where
  /-- Raised by `step` for a fetched word of no row; carries the word and the unchanged `pc`
  (60_exceptions.md R201). Safe. -/
  | unknownOpcode (word pc : Word)
  /-- Raised by `step` (fetch), by eight meanings and by `load_program`, as `Cause` says
  (60_exceptions.md R202). Safe; where the reference wraps or masks instead (92_eei_decisions.md D5, D15, D17) the
  error only makes claims unprovable. -/
  | outOfBounds (cause : Cause)
  deriving DecidableEq, Repr

/-- Why an instruction has no meaning here. -/
inductive Refusal where
  /-- Raised by an arm of `exec` for an instruction not modelled yet; no arm does now. Safe. -/
  | notModelled (mnemonic : String)
  deriving DecidableEq, Repr

/-- What an operation or a meaning answers. -/
abbrev Result := Host.Outcome State Fault Refusal

/-- The machine right after reset (10_state.md R34, R35; 70_reset_and_hazards.md R230): all zero, `pc = 0x200`, memory
at its reset contents (nothing listed). `cfg` is the default configuration (log entries 2, 3), `draws` is 0 (entry 4). -/
def State.reset : State where
  V := Vector.replicate 16 0
  I := 0
  pc := 0x200
  sp := 0
  stack := Vector.replicate 16 0
  DT := 0
  ST := 0
  mem := []
  fb := Vector.replicate 32 0
  key := Vector.replicate 16 false
  cfg := defaultConfig
  draws := 0

end Sys2Proof.Machine
end

