-- ==== Sys2Proof/Machine/Ops.lean ====
section
/-! DEFINITION. The named operations over memory, registers, the call stack and `pc`, and raising an error. -/

namespace Sys2Proof.Machine

/-! ## Memory (20_memory.md) -/

/-- What an unlisted address reads as: the reset contents, the font in `0x050` to `0x09F` and 0 elsewhere
(10_state.md R35; 20_memory.md R51). -/
def Memory.unlisted (font : Vector Byte 80) (a : Nat) : Byte :=
  if h : 0x50 ≤ a ∧ a < 0xA0 then font[a - 0x50] else 0

/-- The byte listed for an address. -/
def Memory.lookup : Memory → Nat → Option Byte
  | [], _ => none
  | (b, v) :: m, a => if a = b then some v else Memory.lookup m a

/-- `MemRead(a, 1)` (20_memory.md R57). Above `0xFFF`, where R57 defines nothing, every caller has raised first. -/
def Memory.read (font : Vector Byte 80) (m : Memory) (a : Nat) : Byte :=
  (Memory.lookup m a).getD (Memory.unlisted font a)

/-- The list without what it holds for an address. -/
def Memory.erase (m : Memory) (a : Nat) : Memory := m.filter fun c => c.1 != a

/-- An entry put in before the first higher address. -/
def Memory.insert : Memory → Nat → Byte → Memory
  | [], a, v => [(a, v)]
  | (b, w) :: m, a, v => if a < b then (a, v) :: (b, w) :: m else (b, w) :: Memory.insert m a v

/-- `MemWrite(a, 1, v)` (20_memory.md R57). Above `0xFFF`, where R57 defines nothing, it keeps the memory; every caller
has raised first. -/
def Memory.write (font : Vector Byte 80) (m : Memory) (a : Nat) (v : Byte) : Memory :=
  if a ≤ 0xFFF then
    if v = Memory.unlisted font a then Memory.erase m a else Memory.insert (Memory.erase m a) a v
  else m

/-- Bytes written one by one at ascending addresses (20_memory.md R53). -/
def Memory.writeList (font : Vector Byte 80) (m : Memory) (a : Nat) : List Byte → Memory
  | [] => m
  | v :: vs => Memory.writeList font (Memory.write font m a v) (a + 1) vs

/-- The canonical form: addresses strictly rising and inside the space (20_memory.md R50), no entry equal to what the
address reads as unlisted. -/
abbrev Memory.wf (font : Vector Byte 80) (m : Memory) : Prop :=
  m.Pairwise (fun c d => c.1 < d.1) ∧ ∀ c ∈ m, c.1 ≤ 0xFFF ∧ c.2 ≠ Memory.unlisted font c.1

/-- The byte at an address of this state's memory. -/
def State.byteAt (s : State) (a : Nat) : Byte := Memory.read s.cfg.font s.mem a

/-- `mem[a] <- v`. -/
def State.writeByte (s : State) (a : Nat) (v : Byte) : State :=
  { s with mem := Memory.write s.cfg.font s.mem a v }

/-- Bytes written one by one at ascending addresses (20_memory.md R53). -/
def State.writeBytes (s : State) (a : Nat) (bytes : List Byte) : State :=
  { s with mem := Memory.writeList s.cfg.font s.mem a bytes }

/-- `n` bytes read at ascending addresses (20_memory.md R53). -/
def State.readBytes (s : State) (a n : Nat) : List Byte := (List.range n).map fun k => s.byteAt (a + k)

/-! ## Registers (10_state.md R20 to R25) -/

/-- `V[x]`. -/
def State.reg (s : State) (x : RegIdx) : Byte := s.V[x]

/-- `V[x] <- v`. No register is hard-wired (10_state.md R20). -/
def State.setReg (s : State) (x : RegIdx) (v : Byte) : State := { s with V := s.V.set x v }

/-- `V[15] <- v`, the flag (10_state.md R21). -/
def State.setVF (s : State) (v : Byte) : State := s.setReg 15 v

/-- `I <- v`. -/
def State.setI (s : State) (v : Word) : State := { s with I := v }

/-- `DT <- v`. -/
def State.setDT (s : State) (v : Byte) : State := { s with DT := v }

/-- `ST <- v`. -/
def State.setST (s : State) (v : Byte) : State := { s with ST := v }

/-- `V[0]` to `V[x]`, lowest first. -/
def State.regsUpTo (s : State) (x : RegIdx) : List Byte := s.V.toList.take (x.val + 1)

/-- `V[k] <- bytes[k]` for each `k` in order; the registers past the bytes keep their values. -/
def State.loadRegs (s : State) (bytes : List Byte) : State :=
  { s with V := s.V.mapFinIdx fun k v _ => (bytes[k]?).getD v }

/-- The framebuffer written whole. -/
def State.setFb (s : State) (fb : Framebuffer) : State := { s with fb := fb }

/-- `key[k] <- pressed` (60_exceptions.md R212). -/
def State.setKeyFlag (s : State) (k : Fin 16) (pressed : Bool) : State := { s with key := s.key.set k pressed }

/-- One sample of the input `rnd` (10_state.md R32): the byte, and the state that has consumed it. -/
def State.sample (s : State) : Byte × State := (Config.rnd s.draws, { s with draws := s.draws + 1 })

/-! ## Control (10_state.md R23, R24) -/

/-- `pc <- target`: no scaling, no alignment, no range check (40_control_transfer.md R106). -/
def State.setPc (s : State) (target : Word) : State := { s with pc := target }

/-- `pc <- pc + 2`, the normal flow. -/
def State.advance (s : State) : State := s.setPc (s.pc + 2)

/-- The skip convention: `pc + 4` when taken, else `pc + 2` (41_skip.md R114). -/
def State.skipIf (s : State) (taken : Bool) : State := s.setPc (if taken then s.pc + 4 else s.pc + 2)

/-- Push, if fewer than 16 entries are in use (10_state.md R24). -/
def State.push? (s : State) (v : Word) : Option State :=
  if h : s.sp.val < 16 then
    some { s with stack := s.stack.set s.sp.val v, sp := ⟨s.sp.val + 1, by omega⟩ }
  else none

/-- Pop, if an entry is in use; the popped entry keeps its contents (10_state.md R24). -/
def State.pop? (s : State) : Option (Word × State) :=
  if h : 0 < s.sp.val then
    some (s.stack[s.sp.val - 1], { s with sp := ⟨s.sp.val - 1, by omega⟩ })
  else none

/-! ## Errors (60_exceptions.md) -/

/-- TAKING AN EXCEPTION, the one operation for it. CORE saves nothing, changes no mode and transfers control nowhere
(60_exceptions.md R207): the operation ends with the error and the state is the one before it (R203).
There is no return from an exception (R208). -/
def raise (r : Fault) : Result := .fault r

/-- Go on unless the highest address touched lies above `0xFFF` (20_memory.md R55, R56: an unbounded sum, checked
before the first write). -/
def guardData (highest : Nat) (k : Result) : Result :=
  if 0xFFF < highest then raise (.outOfBounds .data) else k

/-! ## Fetch (20_memory.md R52) -/

/-- The two bytes at `pc`, unless `pc + 1` lies above `0xFFF` (30_encoding.md R81 steps 1 and 2; 92_eei_decisions.md D5). -/
def State.fetch (s : State) : Option (Byte × Byte) :=
  if 0xFFF < s.pc.toNat + 1 then none else some (s.byteAt s.pc.toNat, s.byteAt (s.pc.toNat + 1))

/-- Fetch and decode: the instruction at `pc`, or the error (30_encoding.md R81 steps 1 to 3; 60_exceptions.md R204). -/
def State.fetchInstr (s : State) : Except Fault Instr :=
  match s.fetch with
  | none => .error (.outOfBounds .fetch)
  | some (hi, lo) =>
    match decode [hi, lo] with
    | .ok (i, _) => .ok i
    | .error _ => .error (.unknownOpcode (wordOfBytes hi lo) s.pc)

end Sys2Proof.Machine
end

