-- ==== Sys2Proof/Machine/Flags.lean ====
section
/-! DEFINITION. Results and flags of the five flag-writing ALU instructions (spec/43_alu.md R130, R135 to R139). -/

namespace Sys2Proof.Machine

/-- VF is the whole byte, `0x00` or `0x01` (10_state.md R21). -/
def flagByte (b : Bool) : Byte := if b then 1 else 0

/-- `a + b`: the sum mod 256, and the carry out of the exact sum (43_alu.md R135). -/
def addCarry (a b : Byte) : Byte × Bool :=
  (BitVec.ofNat 8 (a.toNat + b.toNat), decide (256 ≤ a.toNat + b.toNat))

/-- `a - b` mod 256, and not-borrow (43_alu.md R136; R138 with the operands exchanged). -/
def subNotBorrow (a b : Byte) : Byte × Bool := (a - b, decide (b.toNat ≤ a.toNat))

/-- Logical shift right by one, and the bit shifted out (43_alu.md R137). -/
def shiftRightOut (a : Byte) : Byte × Bool := (a >>> 1, a.getLsbD 0)

/-- Shift left by one mod 256, and the bit shifted out (43_alu.md R139). -/
def shiftLeftOut (a : Byte) : Byte × Bool := (a <<< 1, a.getLsbD 7)

/-- The write order of the family: `V[x] <- result`, then `V[15] <- flag`, so the flag wins when `x = 15`
(43_alu.md R130 (b)); then `pc + 2`. -/
def State.writeWithFlag (s : State) (x : RegIdx) (r : Byte × Bool) : State :=
  ((s.setReg x r.1).setVF (flagByte r.2)).advance

end Sys2Proof.Machine
end

