-- ==== Sys2Proof/Machine/Alu.lean ====
section
/-! DEFINITION. The nine register-register operations (spec/43_alu.md). -/

namespace Sys2Proof.Machine

/-- `8xy0` (43_alu.md R131). -/
def execLdReg (x y : RegIdx) (s : State) : Result := .next (s.setReg x (s.reg y)).advance

/-- `8xy1` (43_alu.md R132; no flag, R130 (c), 92_eei_decisions.md D12). -/
def execOr (x y : RegIdx) (s : State) : Result := .next (s.setReg x (s.reg x ||| s.reg y)).advance

/-- `8xy2` (43_alu.md R133; no flag, R130 (c)). -/
def execAnd (x y : RegIdx) (s : State) : Result := .next (s.setReg x (s.reg x &&& s.reg y)).advance

/-- `8xy3` (43_alu.md R134; no flag, R130 (c)). -/
def execXor (x y : RegIdx) (s : State) : Result := .next (s.setReg x (s.reg x ^^^ s.reg y)).advance

/-- `8xy4` (43_alu.md R135). -/
def execAddReg (x y : RegIdx) (s : State) : Result := .next (s.writeWithFlag x (addCarry (s.reg x) (s.reg y)))

/-- `8xy5` (43_alu.md R136). -/
def execSub (x y : RegIdx) (s : State) : Result := .next (s.writeWithFlag x (subNotBorrow (s.reg x) (s.reg y)))

/-- `8xy6` (43_alu.md R137): `V[x]` in place, `y` ignored (92_eei_decisions.md D11). -/
def execShr (x _y : RegIdx) (s : State) : Result := .next (s.writeWithFlag x (shiftRightOut (s.reg x)))

/-- `8xy7` (43_alu.md R138): `V[y] - V[x]`, into `V[x]`. -/
def execSubn (x y : RegIdx) (s : State) : Result := .next (s.writeWithFlag x (subNotBorrow (s.reg y) (s.reg x)))

/-- `8xyE` (43_alu.md R139): `V[x]` in place, `y` ignored (92_eei_decisions.md D11). -/
def execShl (x _y : RegIdx) (s : State) : Result := .next (s.writeWithFlag x (shiftLeftOut (s.reg x)))

end Sys2Proof.Machine
end

