-- ==== Sys2Proof/Machine/Operands.lean ====
section
/-! DEFINITION. The computed operands (spec/30_encoding.md R73, spec/20_memory.md R56). -/

namespace Sys2Proof.Machine

/-- The one addressing mode, "index plus constant offset": `I + k`, an unbounded number (20_memory.md R56). -/
def State.effAddr (s : State) (k : Nat) : Nat := s.I.toNat + k

/-- `nnn + V[0]` of `Bnnn`, 16 bits (40_control_transfer.md R105). -/
def State.jumpSum (s : State) (nnn : Addr12) : Word := zextAddr nnn + zext16 (s.reg 0)

/-- `I + V[x]` of `Fx1E`, mod 65536 (44_index_memory.md R151). -/
def State.indexSum (s : State) (x : RegIdx) : Word := s.I + zext16 (s.reg x)

/-- `FX29_BASE + 5 * V[x]` of `Fx29` (44_index_memory.md R152). -/
def State.glyphAddr (s : State) (x : RegIdx) : Word := s.cfg.fx29Base + 5 * zext16 (s.reg x)

/-- Hundreds, tens and ones of a byte, one digit a byte (44_index_memory.md R153). -/
def bcdDigits (v : Byte) : List Byte :=
  [BitVec.ofNat 8 (v.toNat / 100), BitVec.ofNat 8 (v.toNat / 10 % 10), BitVec.ofNat 8 (v.toNat % 10)]

/-- The lowest-numbered key that is down (46_keypad_timers.md R182). -/
def firstPressed (key : Vector Bool 16) : Option (Fin 16) := (List.finRange 16).find? fun k => key[k]

/-- A key's number as a byte. -/
def keyByte (k : Fin 16) : Byte := BitVec.ofNat 8 k.val

end Sys2Proof.Machine
end

