-- ==== Sys2Proof/Machine/Control.lean ====
section
/-! DEFINITION. HALT, RET, SYS, JP, CALL, JP_V0 (spec/40_control_transfer.md). -/

namespace Sys2Proof.Machine

/-- `0000` (40_control_transfer.md R100): nothing is written, `pc` is not advanced. -/
def execHalt (s : State) : Result := .next s

/-- `00EE` (40_control_transfer.md R101): `pc` is the popped entry, no +2. -/
def execRet (s : State) : Result :=
  match s.pop? with
  | none => raise (.outOfBounds .stackUnderflow)
  | some (target, t) => .next (t.setPc target)

/-- `0nnn` (40_control_transfer.md R102): a plain jump. -/
def execSys (nnn : Addr12) (s : State) : Result := .next (s.setPc (zextAddr nnn))

/-- `1nnn` (40_control_transfer.md R103). -/
def execJp (nnn : Addr12) (s : State) : Result := .next (s.setPc (zextAddr nnn))

/-- `2nnn` (40_control_transfer.md R104): the pushed value is the address after the CALL. -/
def execCall (nnn : Addr12) (s : State) : Result :=
  match s.push? (s.pc + 2) with
  | none => raise (.outOfBounds .stackOverflow)
  | some t => .next (t.setPc (zextAddr nnn))

/-- `Bnnn` (40_control_transfer.md R105): always `V[0]`; the sum may exceed `0xFFF`. -/
def execJpV0 (nnn : Addr12) (s : State) : Result := .next (s.setPc (s.jumpSum nnn))

end Sys2Proof.Machine
end

