-- ==== Sys2Proof/Machine/Display.lean ====
section
/-! DEFINITION. CLS, DRW and the XOR-blit unit with its collision detector (spec/45_display.md). -/

namespace Sys2Proof.Machine

/-- The pixel in column `px mod 64` of row `py mod 32` (10_state.md R27; coordinates wrap, 45_display.md R171). -/
def Framebuffer.pixel (fb : Framebuffer) (px py : Nat) : Bool :=
  (fb[py % 32]'(Nat.mod_lt _ (by omega))).getLsbD (px % 64)

/-- `fb[k] <- fb[k] ^ 1` at the wrapped place (45_display.md R171). -/
def Framebuffer.toggle (fb : Framebuffer) (px py : Nat) : Framebuffer :=
  fb.set (py % 32) ((fb[py % 32]'(Nat.mod_lt _ (by omega))) ^^^ BitVec.twoPow 64 (px % 64)) (Nat.mod_lt _ (by omega))

/-- Every pixel 0. -/
def Framebuffer.clear : Framebuffer := Vector.replicate 32 0

/-- The blit unit's working state: the framebuffer and the collision detector. -/
structure Blit where
  fb : Framebuffer
  collision : Bool
  deriving DecidableEq, Repr

/-- One sprite bit at column `px` of row `py`: a 0 changes nothing; a 1 toggles the pixel and collides when it was lit. -/
def blitBit (sprite : Bool) (px py : Nat) (b : Blit) : Blit :=
  if sprite then ⟨b.fb.toggle px py, b.collision || b.fb.pixel px py⟩ else b

/-- One sprite row of 8 bits, most significant first (45_display.md R171, the inner loop). -/
def blitRow (vx py : Nat) (byte : Byte) (b : Blit) : Blit :=
  (List.range 8).foldl (fun b bit => blitBit (byte.getLsbD (7 - bit)) (vx + bit) py b) b

/-- The sprite's rows downwards from row `py` (45_display.md R171, the outer loop). -/
def blitRows (vx : Nat) : Nat → List Byte → Blit → Blit
  | _, [], b => b
  | py, byte :: rows, b => blitRows vx (py + 1) rows (blitRow vx py byte b)

/-- `00E0` (45_display.md R170): VF is not written. -/
def execCls (s : State) : Result := .next (s.setFb Framebuffer.clear).advance

/-- What DRW does once its bound check has passed: VF is cleared at the start, the rows are blitted at the coordinates
`vx`, `vy`, and the collision is written to VF last (45_display.md R171). -/
def State.draw (s : State) (vx vy : Byte) (rows : List Byte) : State :=
  let b := blitRows vx.toNat vy.toNat rows ⟨s.fb, false⟩
  (((s.setVF 0).setFb b.fb).setVF (flagByte b.collision)).advance

/-- `Dxyn` (45_display.md R171): the coordinates are sampled before VF is cleared (92_eei_decisions.md D16), all rows
are checked before any write, and `n = 0` has no access to check (D28). -/
def execDrw (x y : RegIdx) (n : Fin 16) (s : State) : Result :=
  guardData (if n.val = 0 then 0 else s.effAddr (n.val - 1))
    (.next (s.draw (s.reg x) (s.reg y) (s.readBytes (s.effAddr 0) n.val)))

end Sys2Proof.Machine
end

