-- ==== Sys2Proof/Machine/ImmediateRandom.lean ====
section
/-! DEFINITION. LD_IMM, ADD_IMM, RND (spec/42_immediate_random.md). -/

namespace Sys2Proof.Machine

/-- `6xkk` (42_immediate_random.md R120). -/
def execLdImm (x : RegIdx) (kk : Byte) (s : State) : Result := .next (s.setReg x kk).advance

/-- `7xkk` (42_immediate_random.md R121): mod 256, VF is not a flag here. -/
def execAddImm (x : RegIdx) (kk : Byte) (s : State) : Result := .next (s.setReg x (s.reg x + kk)).advance

/-- `Cxkk` (42_immediate_random.md R122): one sample, taken also when `kk = 0`. -/
def execRnd (x : RegIdx) (kk : Byte) (s : State) : Result :=
  .next (s.sample.2.setReg x (s.sample.1 &&& kk)).advance

end Sys2Proof.Machine
end

