-- ==== Sys2Proof/Machine/IndexMemory.lean ====
section
/-! DEFINITION. LD_I, ADD_I, LD_F, LD_B, LD_MEM_VX, LD_VX_MEM (spec/44_index_memory.md). -/

namespace Sys2Proof.Machine

/-- `Annn` (44_index_memory.md R150). -/
def execLdI (nnn : Addr12) (s : State) : Result := .next (s.setI (zextAddr nnn)).advance

/-- `Fx1E` (44_index_memory.md R151): wraps mod 65536, no flag. -/
def execAddI (x : RegIdx) (s : State) : Result := .next (s.setI (s.indexSum x)).advance

/-- `Fx29` (44_index_memory.md R152): `V[x]` is neither masked nor checked (92_eei_decisions.md D14). -/
def execLdF (x : RegIdx) (s : State) : Result := .next (s.setI (s.glyphAddr x)).advance

/-- `Fx33` (44_index_memory.md R153). -/
def execLdB (x : RegIdx) (s : State) : Result :=
  guardData (s.effAddr 2) (.next (s.writeBytes (s.effAddr 0) (bcdDigits (s.reg x))).advance)

/-- `Fx55` (44_index_memory.md R154): `I` is unchanged (92_eei_decisions.md D18). -/
def execLdMemVx (x : RegIdx) (s : State) : Result :=
  guardData (s.effAddr x.val) (.next (s.writeBytes (s.effAddr 0) (s.regsUpTo x)).advance)

/-- `Fx65` (44_index_memory.md R155): `I` is unchanged (92_eei_decisions.md D18). -/
def execLdVxMem (x : RegIdx) (s : State) : Result :=
  guardData (s.effAddr x.val) (.next (s.loadRegs (s.readBytes (s.effAddr 0) (x.val + 1))).advance)

end Sys2Proof.Machine
end

