-- ==== Sys2Proof/Machine/KeypadTimers.lean ====
section
/-! DEFINITION. SKP, SKNP, LD_VX_K, LD_VX_DT, LD_DT_VX, LD_ST_VX (spec/46_keypad_timers.md). -/

namespace Sys2Proof.Machine

/-- `key[v]`, if the keypad has a key of that number (46_keypad_timers.md R180; 92_eei_decisions.md D15). -/
def State.keyAt? (s : State) (v : Byte) : Option Bool :=
  if h : v.toNat < 16 then some s.key[v.toNat] else none

/-- `Ex9E` (46_keypad_timers.md R180): the key tested is the one numbered by the value of `V[x]`. -/
def execSkp (x : RegIdx) (s : State) : Result :=
  match s.keyAt? (s.reg x) with
  | none => raise (.outOfBounds .keyIndex)
  | some down => .next (s.skipIf down)

/-- `ExA1` (46_keypad_timers.md R181). -/
def execSknp (x : RegIdx) (s : State) : Result :=
  match s.keyAt? (s.reg x) with
  | none => raise (.outOfBounds .keyIndex)
  | some down => .next (s.skipIf (!down))

/-- `Fx0A` (46_keypad_timers.md R182): the lowest key down is stored; with none down nothing is written and `pc` is not
advanced. The test is of levels (92_eei_decisions.md D24). -/
def execLdVxK (x : RegIdx) (s : State) : Result :=
  match firstPressed s.key with
  | none => .next s
  | some k => .next (s.setReg x (keyByte k)).advance

/-- `Fx07` (46_keypad_timers.md R183). -/
def execLdVxDt (x : RegIdx) (s : State) : Result := .next (s.setReg x s.DT).advance

/-- `Fx15` (46_keypad_timers.md R184). -/
def execLdDtVx (x : RegIdx) (s : State) : Result := .next (s.setDT (s.reg x)).advance

/-- `Fx18` (46_keypad_timers.md R185). -/
def execLdStVx (x : RegIdx) (s : State) : Result := .next (s.setST (s.reg x)).advance

end Sys2Proof.Machine
end

