-- ==== Sys2Proof/Machine/Skip.lean ====
section
/-! DEFINITION. SE_IMM, SNE_IMM, SE_REG, SNE_REG (spec/41_skip.md). -/

namespace Sys2Proof.Machine

/-- `3xkk` (41_skip.md R110). -/
def execSeImm (x : RegIdx) (kk : Byte) (s : State) : Result := .next (s.skipIf (s.reg x == kk))

/-- `4xkk` (41_skip.md R111). -/
def execSneImm (x : RegIdx) (kk : Byte) (s : State) : Result := .next (s.skipIf (s.reg x != kk))

/-- `5xy0` (41_skip.md R112). -/
def execSeReg (x y : RegIdx) (s : State) : Result := .next (s.skipIf (s.reg x == s.reg y))

/-- `9xy0` (41_skip.md R113). -/
def execSneReg (x y : RegIdx) (s : State) : Result := .next (s.skipIf (s.reg x != s.reg y))

end Sys2Proof.Machine
end

