-- ==== Sys2Proof/Machine/Step.lean ====
section
/-! DEFINITION. The step: the host operation `cycle` (spec/30_encoding.md R81). -/

namespace Sys2Proof.Machine

/-- One `cycle` (30_encoding.md R81): fetch, decode, execute; the first error met ends it (60_exceptions.md R204). -/
def step (s : State) : Host.Outcome State Fault Refusal :=
  match s.fetchInstr with
  | .error r => raise r
  | .ok i => exec i s

/-- The state with the word `w` of `nbits` bits stored where the next `cycle` fetches, high byte at `pc`
(20_memory.md R52). With `pc >= 0xFFF` there is no such place (30_encoding.md R81) and the addresses above `0xFFF` take
no byte. Log entry 6: how a program comes to run. -/
def State.withFetchWord (s : State) (nbits w : Nat) : State :=
  s.writeBytes s.pc.toNat (bytesOfWord (BitVec.ofNat 16 (w % 2 ^ nbits)))

end Sys2Proof.Machine
end

