-- ==== Sys2Proof/Machine/HostOps.lean ====
section
/-! DEFINITION. The eight host operations and their status (spec/10_state.md R31 to R33, spec/60_exceptions.md,
spec/70_reset_and_hazards.md). -/

namespace Sys2Proof.Machine

/-- `new` and `reset`, one operation (70_reset_and_hazards.md R230, R231): every piece of state at its reset value.
The random source is not affected (60_exceptions.md R214), and the parameters stay the machine's (log entry 1). -/
def State.doReset (s : State) : State := { State.reset with cfg := s.cfg, draws := s.draws }

/-- `load_program(bytes)` (70_reset_and_hazards.md R233): the bytes from `0x200` and nothing else. -/
def loadProgram (bytes : List Byte) (s : State) : Result :=
  if 0xE00 < bytes.length then raise (.outOfBounds .image) else .next (s.writeBytes 0x200 bytes)

/-- `set_key(index, pressed)` (60_exceptions.md R212): one flag and nothing else. -/
def setKey (index : Fin 16) (pressed : Bool) (s : State) : State := s.setKeyFlag index pressed

/-- A timer counts down to 0 and stays there (60_exceptions.md R210). -/
def countDown (t : Byte) : Byte := if 0 < t.toNat then t - 1 else t

/-- `tick_timers` (60_exceptions.md R210): each timer on its own. -/
def tickTimers (s : State) : State := (s.setDT (countDown s.DT)).setST (countDown s.ST)

/-- `framebuffer()`: the 2048 pixels, `fb[x + 64 * y]` at index `x + 64 * y` (60_exceptions.md R213; 10_state.md R27). -/
def framebuffer (s : State) : List Bool := (List.range 2048).map fun k => s.fb.pixel (k % 64) (k / 64)

/-- `sound_active()`: true iff `ST > 0` (60_exceptions.md R211). -/
def soundActive (s : State) : Bool := decide (0 < s.ST.toNat)

/-- The eight operations of the command port (10_state.md R31). -/
inductive HostOp where
  | new
  | reset
  | loadProgram (bytes : List Byte)
  | setKey (index : Fin 16) (pressed : Bool)
  | cycle
  | tickTimers
  | framebuffer
  | soundActive
  deriving DecidableEq, Repr

/-- The output `status` (10_state.md R33). -/
inductive Status where
  | ok
  | error (r : Fault)
  /-- Only if an instruction had no meaning; no arm of `exec` refuses. -/
  | noMeaning (r : Refusal)
  deriving DecidableEq, Repr

/-- What an operation answers to the host (10_state.md R33). -/
inductive Reply where
  | status (st : Status)
  | pixels (fb : List Bool)
  | sound (active : Bool)
  deriving DecidableEq, Repr

/-- The numeric code of a status (60_exceptions.md R219). A refusal has none there. -/
def Status.code : Status → Option Nat
  | .ok => some 0
  | .error (.unknownOpcode _ _) => some 1
  | .error (.outOfBounds _) => some 2
  | .noMeaning _ => none

/-- The numeric code of a cause (60_exceptions.md R219). -/
def Cause.code : Cause → Nat
  | .fetch => 0
  | .stackOverflow => 1
  | .stackUnderflow => 2
  | .data => 3
  | .keyIndex => 4
  | .image => 5

/-- An operation's outcome as status and state: on an error the state is the one before the operation, every piece of
it (60_exceptions.md R203). -/
def settle (s : State) : Result → Reply × State
  | .next t => (.status .ok, t)
  | .fault r => (.status (.error r), s)
  | .refused r => (.status (.noMeaning r), s)

/-- One host operation, atomic (00_scope.md R6; 10_state.md R31). -/
def operate (op : HostOp) (s : State) : Reply × State :=
  match op with
  | .new => settle s (.next s.doReset)
  | .reset => settle s (.next s.doReset)
  | .loadProgram bytes => settle s (Sys2Proof.Machine.loadProgram bytes s)
  | .setKey k b => settle s (.next (Sys2Proof.Machine.setKey k b s))
  | .cycle => settle s (step s)
  | .tickTimers => settle s (.next (Sys2Proof.Machine.tickTimers s))
  | .framebuffer => (.pixels (Sys2Proof.Machine.framebuffer s), s)
  | .soundActive => (.sound (Sys2Proof.Machine.soundActive s), s)

/-- A sequence of host operations in their total order (00_scope.md R6; 60_exceptions.md R206): the state after it. -/
def serve : List HostOp → State → State
  | [], s => s
  | op :: ops, s => serve ops (operate op s).2

end Sys2Proof.Machine
end

