-- ==== Sys2Proof/Safety.lean ====
section
/-! DEFINITION. The terms claims are stated in: frames, the error table, the write table, halted states, the invariant. -/

namespace Sys2Proof.Machine

/-! ## Frames -/

/-- The parts of a state, for saying what an operation leaves alone. -/
inductive Field where
  | V | I | pc | sp | stack | DT | ST | mem | fb | key | cfg | draws
  deriving DecidableEq, Repr

/-- One part of the state is unchanged, said through the model's reads: every register, every byte of memory, every
pixel, every stack entry, every key flag. -/
def Same (f : Field) (s t : State) : Prop :=
  match f with
  | .V => ∀ j : RegIdx, t.reg j = s.reg j
  | .I => t.I = s.I
  | .pc => t.pc = s.pc
  | .sp => t.sp = s.sp
  | .stack => ∀ k : Fin 16, t.stack[k] = s.stack[k]
  | .DT => t.DT = s.DT
  | .ST => t.ST = s.ST
  | .mem => ∀ a : Nat, t.byteAt a = s.byteAt a
  | .fb => ∀ px py : Nat, t.fb.pixel px py = s.fb.pixel px py
  | .key => ∀ k : Fin 16, t.key[k] = s.key[k]
  | .cfg => t.cfg = s.cfg
  | .draws => t.draws = s.draws

/-- Every part of the state but those listed is unchanged. -/
def UnchangedBut (fs : List Field) (s t : State) : Prop := ∀ f : Field, f ∉ fs → Same f s t

/-! ## What an instruction may write (10_state.md R37) -/

/-- The parts of the state an instruction may write (10_state.md R37). -/
def writesOf : Instr → List Field
  | .halt => []
  | .cls => [.fb, .pc]
  | .ret => [.sp, .pc]
  | .sys _ | .jp _ | .jpV0 _ => [.pc]
  | .call _ => [.sp, .stack, .pc]
  | .seImm _ _ | .sneImm _ _ | .seReg _ _ | .sneReg _ _ | .skp _ | .sknp _ => [.pc]
  | .ldImm _ _ | .addImm _ _ => [.V, .pc]
  | .ldReg _ _ | .or _ _ | .and _ _ | .xor _ _ | .addReg _ _ | .sub _ _ | .shr _ _ | .subn _ _ | .shl _ _ => [.V, .pc]
  | .ldI _ | .addI _ | .ldF _ => [.I, .pc]
  | .rnd _ _ => [.V, .pc, .draws]
  | .drw _ _ _ => [.V, .fb, .pc]
  | .ldVxDt _ | .ldVxK _ => [.V, .pc]
  | .ldDtVx _ => [.DT, .pc]
  | .ldStVx _ => [.ST, .pc]
  | .ldB _ | .ldMemVx _ => [.mem, .pc]
  | .ldVxMem _ => [.V, .pc]

/-- The instructions that write VF as a flag (10_state.md R21). -/
def writesFlag : Instr → Bool
  | .addReg _ _ | .sub _ _ | .shr _ _ | .subn _ _ | .shl _ _ | .drw _ _ _ => true
  | .halt | .cls | .ret | .sys _ | .jp _ | .call _ | .seImm _ _ | .sneImm _ _ | .seReg _ _ | .ldImm _ _ | .addImm _ _
  | .ldReg _ _ | .or _ _ | .and _ _ | .xor _ _ | .sneReg _ _ | .ldI _ | .jpV0 _ | .rnd _ _ | .skp _ | .sknp _
  | .ldVxDt _ | .ldVxK _ | .ldDtVx _ | .ldStVx _ | .addI _ | .ldF _ | .ldB _ | .ldMemVx _ | .ldVxMem _ => false

/-- Register `j` is a named destination of the instruction (10_state.md R37, row `V[x]`). -/
def isDest : Instr → RegIdx → Bool
  | .ldImm x _, j | .addImm x _, j | .rnd x _, j => j == x
  | .ldReg x _, j | .or x _, j | .and x _, j | .xor x _, j | .addReg x _, j | .sub x _, j | .shr x _, j | .subn x _, j
  | .shl x _, j => j == x
  | .ldVxDt x, j | .ldVxK x, j => j == x
  | .ldVxMem x, j => decide (j.val ≤ x.val)
  | .halt, _ | .cls, _ | .ret, _ | .sys _, _ | .jp _, _ | .call _, _ | .seImm _ _, _ | .sneImm _ _, _ | .seReg _ _, _
  | .sneReg _ _, _ | .ldI _, _ | .jpV0 _, _ | .drw _ _ _, _ | .skp _, _ | .sknp _, _ | .ldDtVx _, _ | .ldStVx _, _
  | .addI _, _ | .ldF _, _ | .ldB _, _ | .ldMemVx _, _ => false

/-! ## Errors (60_exceptions.md R202) -/

/-- The error table of 60_exceptions.md R202, read as a function: the cause an instruction meets in a state. -/
def errorOf : Instr → State → Option Cause
  | .call _, s => if s.sp.val = 16 then some .stackOverflow else none
  | .ret, s => if s.sp.val = 0 then some .stackUnderflow else none
  | .drw _ _ n, s => if 1 ≤ n.val ∧ 0xFFF < s.I.toNat + n.val - 1 then some .data else none
  | .ldB _, s => if 0xFFF < s.I.toNat + 2 then some .data else none
  | .ldMemVx x, s | .ldVxMem x, s => if 0xFFF < s.I.toNat + x.val then some .data else none
  | .skp x, s | .sknp x, s => if 15 < (s.reg x).toNat then some .keyIndex else none
  | .halt, _ | .cls, _ | .sys _, _ | .jp _, _ | .seImm _ _, _ | .sneImm _ _, _ | .seReg _ _, _ | .ldImm _ _, _
  | .addImm _ _, _ | .ldReg _ _, _ | .or _ _, _ | .and _ _, _ | .xor _ _, _ | .addReg _ _, _ | .sub _ _, _ | .shr _ _, _
  | .subn _ _, _ | .shl _ _, _ | .sneReg _ _, _ | .ldI _, _ | .jpV0 _, _ | .rnd _ _, _ | .ldVxDt _, _ | .ldVxK _, _
  | .ldDtVx _, _ | .ldStVx _, _ | .addI _, _ | .ldF _, _ => none

/-! ## Words and sprites -/

/-- The word at `pc`, the byte at the lower address the high byte (20_memory.md R52). -/
def State.wordAtPc (s : State) : Word :=
  (zext16 (s.byteAt s.pc.toNat) <<< 8) ||| zext16 (s.byteAt (s.pc.toNat + 1))

/-- A sprite of `n` rows at `I`, drawn at `(vx, vy)`, has a 1 bit that maps to pixel `(px, py)` (45_display.md R172,
`S[k]`). -/
def SpriteCovers (s : State) (vx vy n px py : Nat) : Prop :=
  ∃ row bit : Nat, row < n ∧ bit < 8 ∧ (s.byteAt (s.I.toNat + row)).getLsbD (7 - bit) = true ∧
    (vx + bit) % 64 = px ∧ (vy + row) % 32 = py

/-! ## Runs -/

/-- Halted: the word at `pc` is the halt sentinel (70_reset_and_hazards.md R242; 92_eei_decisions.md D26). -/
def State.halted (s : State) : Bool :=
  decide (s.pc.toNat ≤ 0xFFE) && s.byteAt s.pc.toNat == 0 && s.byteAt (s.pc.toNat + 1) == 0

/-- Errored: the next `cycle` ends with an error (60_exceptions.md R208: faulted, not final). -/
def State.errored (s : State) (r : Fault) : Prop := step s = .fault r

/-- The reset values of 10_state.md R35, all of them; the font bytes are those of the machine's parameter `FONT`. -/
def ResetValues (t : State) : Prop :=
  (∀ j : RegIdx, t.reg j = 0) ∧ t.I = 0x0000 ∧ t.pc = 0x0200 ∧ t.sp.val = 0 ∧ (∀ k : Fin 16, t.stack[k] = 0x0000) ∧
    t.DT = 0x00 ∧ t.ST = 0x00 ∧ soundActive t = false ∧
    (∀ (k : Nat) (h : k < 80), t.byteAt (0x050 + k) = t.cfg.font[k]) ∧
    (∀ a : Nat, a ≤ 0x04F ∨ (0x0A0 ≤ a ∧ a ≤ 0xFFF) → t.byteAt a = 0x00) ∧
    (∀ px py : Nat, t.fb.pixel px py = false) ∧ (∀ k : Fin 16, t.key[k] = false)

/-- The bounds of 10_state.md R36 on `pc` and the pushed addresses, and the canonical form of memory, the model's own
representation (log entry 11).
(`sp <= 16` is in the type of `sp`.) -/
def Inv (s : State) : Prop :=
  s.pc.toNat ≤ 0x10FE ∧ (∀ k : Fin 16, s.stack[k].toNat ≤ 0x1000) ∧ Memory.wf s.cfg.font s.mem

end Sys2Proof.Machine
end

