-- ==== Sys2Proof/Certificates/Slice0/Obligations.lean ====
section
/-! DEFINITION. The statements for the provers, from the numbered rules of spec/. Nothing is proved here.
Where a statement rests on a decision the spec marks as its own (92_eei_decisions.md D<n>) its docstring says so. -/

open Sys2Proof Sys2Proof.Machine

/-! ## Encoding and decoding -/

/-- The words of 95_test_vectors.md Part 2 decode as its table says. -/
def Obligations.SpecWordsDecode : Prop :=
  decodeWord 0x0000#16 = .ok .halt ∧ decodeWord 0x00E0#16 = .ok .cls ∧ decodeWord 0x00EE#16 = .ok .ret ∧
  decodeWord 0x00E1#16 = .ok (.sys 0x0E1) ∧ decodeWord 0x1ABC#16 = .ok (.jp 0xABC) ∧
  decodeWord 0x2FFF#16 = .ok (.call 0xFFF) ∧ decodeWord 0x3A05#16 = .ok (.seImm 0xA 0x05) ∧
  decodeWord 0x5120#16 = .ok (.seReg 1 2) ∧ decodeWord 0x5121#16 = .error (.unknown 0x5121#16) ∧
  decodeWord 0x8AB4#16 = .ok (.addReg 0xA 0xB) ∧ decodeWord 0x8AB8#16 = .error (.unknown 0x8AB8#16) ∧
  decodeWord 0x8ABE#16 = .ok (.shl 0xA 0xB) ∧ decodeWord 0x9AB0#16 = .ok (.sneReg 0xA 0xB) ∧
  decodeWord 0xB300#16 = .ok (.jpV0 0x300) ∧ decodeWord 0xC0FF#16 = .ok (.rnd 0 0xFF) ∧
  decodeWord 0xD125#16 = .ok (.drw 1 2 5) ∧ decodeWord 0xE09E#16 = .ok (.skp 0) ∧
  decodeWord 0xE0A1#16 = .ok (.sknp 0) ∧ decodeWord 0xF065#16 = .ok (.ldVxMem 0) ∧
  decodeWord 0xF075#16 = .error (.unknown 0xF075#16) ∧ decodeWord 0xFFFF#16 = .error (.unknown 0xFFFF#16)

/-- Decoding the bytes of any well-formed instruction gives that instruction back, every operand at every value, and
leaves the bytes after it (30_encoding.md R70 to R75). -/
def Obligations.DecodeOfEncode : Prop :=
  ∀ (i : Instr) (rest : List Byte), i.wellFormed = true → decode (encodeBytes i ++ rest) = .ok (i, rest)

/-- The other direction: a word that decodes is the encoding of what it decodes to, which is well-formed. -/
def Obligations.EncodeOfDecode : Prop :=
  ∀ (w : Word) (i : Instr), decodeWord w = .ok i → i.wellFormed = true ∧ encode i = w

/-- A word decodes exactly when it matches a row of the opcode map, and then to the instruction of a row it matches
(30_encoding.md R75). -/
def Obligations.DecoderAgreesWithOpcodeMap : Prop :=
  (∀ (w : Word) (i : Instr), decodeWord w = .ok i → (opcodeMap[i.rowNumber]?).map (fun r => r.fits w) = some true) ∧
  ∀ w : Word, (∃ i, decodeWord w = .ok i) ↔ ∃ r ∈ opcodeMap, r.fits w = true

/-- No word matches two rows, but for the words of HALT, CLS and RET, which match row SYS too (30_encoding.md R75). -/
def Obligations.RowsOverlapOnlyInSys : Prop :=
  ∀ (w : Word) (j k : Nat) (r q : OpcodeRow), j < k → opcodeMap[j]? = some r → opcodeMap[k]? = some q →
    r.fits w = true → q.fits w = true →
    q.mnemonic = "SYS" ∧ (w = 0x0000#16 ∨ w = 0x00E0#16 ∨ w = 0x00EE#16)

/-- The illegal words are exactly the five sets of 30_encoding.md R76 (decisions D9, D10 of the spec), and the decoder
names the word. -/
def Obligations.IllegalWordsAreTheFiveSets : Prop :=
  ∀ w : Word, decodeWord w = .error (.unknown w) ↔
    (fieldOp w = 0x5 ∧ fieldN w ≠ 0) ∨ (fieldOp w = 0x9 ∧ fieldN w ≠ 0) ∨
    (fieldOp w = 0x8 ∧ (fieldN w).val ∈ [0x8, 0x9, 0xA, 0xB, 0xC, 0xD, 0xF]) ∨
    (fieldOp w = 0xE ∧ (fieldKk w).toNat ∉ [0x9E, 0xA1]) ∨
    (fieldOp w = 0xF ∧ (fieldKk w).toNat ∉ [0x07, 0x0A, 0x15, 0x18, 0x1E, 0x29, 0x33, 0x55, 0x65])

/-! ## The cycle -/

/-- A step runs exactly the instruction decoded from the big-endian word at `pc` (20_memory.md R52). -/
def Obligations.StepRunsDecodedInstruction : Prop :=
  ∀ (s : State) (i : Instr), s.pc.toNat + 1 ≤ 0xFFF →
    decodeWord ((zext16 (s.byteAt s.pc.toNat) <<< 8) ||| zext16 (s.byteAt (s.pc.toNat + 1))) = .ok i →
    step s = exec i s

/-- The errors of a cycle in their order: fetch bound, then unknown word with the word and the unchanged `pc`
(60_exceptions.md R201, R204; decisions D5, D29, D30 of the spec). -/
def Obligations.StepErrorsInOrder : Prop :=
  ∀ s : State,
    (0xFFF ≤ s.pc.toNat → step s = .fault (.outOfBounds .fetch)) ∧
    (s.pc.toNat + 1 ≤ 0xFFF → (∀ i, decodeWord s.wordAtPc ≠ .ok i) →
      step s = .fault (.unknownOpcode s.wordAtPc s.pc))

/-- The error table of 60_exceptions.md R202 is exact: an instruction ends with an error exactly when the table gives
it a cause, and then with that cause; otherwise it completes (the spec's decisions D3, D15, D17, D28; that the three
ill-formed SYS terms complete too is log entry 14). -/
def Obligations.ErrorTableIsExact : Prop :=
  ∀ (i : Instr) (s : State),
    (∀ c, errorOf i s = some c → exec i s = .fault (.outOfBounds c)) ∧
    (errorOf i s = none → ∃ t, exec i s = .next t)

/-- No instruction is refused, and no step is (30_encoding.md R75: every row has a meaning). -/
def Obligations.NothingIsRefused : Prop :=
  (∀ (i : Instr) (s : State) (r : Refusal), exec i s ≠ .refused r) ∧ ∀ (s : State) (r : Refusal), step s ≠ .refused r

/-- Every error condition is a function of `pc`, memory, `sp`, `I` and `V` alone: states that agree on these meet the
same errors (60_exceptions.md R208). -/
def Obligations.ErrorsDependOnFewParts : Prop :=
  ∀ (s t : State) (r : Fault), UnchangedBut [.stack, .DT, .ST, .fb, .key, .cfg, .draws] s t →
    (step s = .fault r ↔ step t = .fault r)

/-- `set_key` and `tick_timers` cannot clear an error (60_exceptions.md R208, R243). -/
def Obligations.ErrorsPersist : Prop :=
  ∀ (s : State) (r : Fault) (k : Fin 16) (b : Bool), s.errored r →
    (operate .cycle s).2.errored r ∧ (operate (.setKey k b) s).2.errored r ∧ (operate .tickTimers s).2.errored r

/-! ## Control transfer -/

/-- HALT (40_control_transfer.md R100): nothing at all changes, and `set_key` and `tick_timers` cannot end the stall. -/
def Obligations.HaltChangesNothing : Prop :=
  decodeWord 0x0000#16 = .ok .halt ∧ (∀ s : State, exec .halt s = .next s) ∧
  ∀ s : State, s.pc.toNat + 1 ≤ 0xFFF → s.wordAtPc = 0x0000#16 →
    step s = .next s ∧ (∀ (k : Fin 16) (b : Bool), step (setKey k b s) = .next (setKey k b s)) ∧
      step (tickTimers s) = .next (tickTimers s)

/-- A halted state is a fixed point of `cycle` and stays halted under `set_key` and `tick_timers`
(70_reset_and_hazards.md R242; decision D26 of the spec). -/
def Obligations.HaltedStaysHalted : Prop :=
  ∀ (s : State) (k : Fin 16) (b : Bool), s.halted = true →
    step s = .next s ∧ (setKey k b s).halted = true ∧ (tickTimers s).halted = true

/-- RET (40_control_transfer.md R101): pops into `pc` with no +2; an empty stack is an error. The popped entry keeps
its contents by the spec's decision D7. -/
def Obligations.RetResult : Prop :=
  decodeWord 0x00EE#16 = .ok .ret ∧ ∀ s : State,
    (s.sp.val = 0 → exec .ret s = .fault (.outOfBounds .stackUnderflow)) ∧
    (∀ k : Fin 16, s.sp.val = k.val + 1 →
      ∃ t, exec .ret s = .next t ∧ t.sp.val = k.val ∧ t.pc = s.stack[k] ∧ UnchangedBut [.sp, .pc] s t)

/-- SYS and JP (40_control_transfer.md R102, R103): `pc` is `nnn`, nothing else changes. SYS is stated for the `nnn` it
has, all but `0x000`, `0x0E0` and `0x0EE`. -/
def Obligations.SysJpResult : Prop :=
  (∀ nnn : Addr12, nnn ≠ 0x000 → nnn ≠ 0x0E0 → nnn ≠ 0x0EE → decodeWord (wordA 0x0 nnn) = .ok (.sys nnn)) ∧
  (∀ nnn : Addr12, decodeWord (wordA 0x1 nnn) = .ok (.jp nnn)) ∧
  (∀ (s : State) (nnn : Addr12), nnn ≠ 0x000 → nnn ≠ 0x0E0 → nnn ≠ 0x0EE →
    ∃ t, exec (.sys nnn) s = .next t ∧ t.pc.toNat = nnn.toNat ∧ UnchangedBut [.pc] s t) ∧
  ∀ (s : State) (nnn : Addr12), ∃ t, exec (.jp nnn) s = .next t ∧ t.pc.toNat = nnn.toNat ∧ UnchangedBut [.pc] s t

/-- CALL (40_control_transfer.md R104): pushes `pc + 2` at `stack[sp]` and jumps; a full stack is an error. The place
of the entry is the spec's decision D8. -/
def Obligations.CallResult : Prop :=
  (∀ nnn : Addr12, decodeWord (wordA 0x2 nnn) = .ok (.call nnn)) ∧ ∀ (s : State) (nnn : Addr12),
    (s.sp.val = 16 → exec (.call nnn) s = .fault (.outOfBounds .stackOverflow)) ∧
    (∀ k : Fin 16, s.sp.val = k.val →
      ∃ t, exec (.call nnn) s = .next t ∧ t.sp.val = k.val + 1 ∧ t.stack[k] = s.pc + 2 ∧
        (∀ j : Fin 16, j ≠ k → t.stack[j] = s.stack[j]) ∧ t.pc.toNat = nnn.toNat ∧ UnchangedBut [.sp, .stack, .pc] s t)

/-- JP_V0 (40_control_transfer.md R105): `pc` is the exact sum `nnn + V[0]`, not reduced mod 4096; a sum of `0xFFF` or
more faults only at the next fetch. -/
def Obligations.JpV0Result : Prop :=
  (∀ nnn : Addr12, decodeWord (wordA 0xB nnn) = .ok (.jpV0 nnn)) ∧
  ∀ (s : State) (nnn : Addr12), ∃ t, exec (.jpV0 nnn) s = .next t ∧
    t.pc.toNat = nnn.toNat + (s.reg 0).toNat ∧ t.pc.toNat ≤ 0x10FE ∧ UnchangedBut [.pc] s t ∧
    (0xFFF ≤ t.pc.toNat → step t = .fault (.outOfBounds .fetch))

/-- A RET right after a CALL comes back to the address after the CALL, with the same count of entries and every
entry as before but the stale one at `sp`, which holds the popped address (40_control_transfer.md R101, R104; retained
by the spec's decision D7). -/
def Obligations.CallThenRetReturns : Prop :=
  ∀ (s : State) (nnn : Addr12), s.sp.val < 16 →
    ∃ t u, exec (.call nnn) s = .next t ∧ exec .ret t = .next u ∧ u.pc = s.pc + 2 ∧ u.sp = s.sp ∧
      (∀ k : Fin 16, u.stack[k] = if k.val = s.sp.val then s.pc + 2 else s.stack[k]) ∧ UnchangedBut [.stack, .pc] s u

/-! ## Skips -/

/-- SE_IMM and SNE_IMM (41_skip.md R110, R111). -/
def Obligations.SkipImmediateResult : Prop :=
  ∀ (x : RegIdx) (kk : Byte),
    decodeWord (wordXK 0x3 x kk) = .ok (.seImm x kk) ∧ decodeWord (wordXK 0x4 x kk) = .ok (.sneImm x kk) ∧
    ∀ s : State,
      (∃ t, exec (.seImm x kk) s = .next t ∧ t.pc = (if s.reg x = kk then s.pc + 4 else s.pc + 2) ∧
        UnchangedBut [.pc] s t) ∧
      ∃ t, exec (.sneImm x kk) s = .next t ∧ t.pc = (if s.reg x ≠ kk then s.pc + 4 else s.pc + 2) ∧
        UnchangedBut [.pc] s t

/-- SE_REG and SNE_REG (41_skip.md R112, R113); that a low nibble other than 0 is illegal is the spec's decision D9. -/
def Obligations.SkipRegisterResult : Prop :=
  ∀ x y : RegIdx,
    decodeWord (wordXY 0x5 x y 0) = .ok (.seReg x y) ∧ decodeWord (wordXY 0x9 x y 0) = .ok (.sneReg x y) ∧
    (∀ n : Fin 16, n ≠ 0 → decodeWord (wordXY 0x5 x y n) = .error (.unknown (wordXY 0x5 x y n)) ∧
      decodeWord (wordXY 0x9 x y n) = .error (.unknown (wordXY 0x9 x y n))) ∧
    ∀ s : State,
      (∃ t, exec (.seReg x y) s = .next t ∧ t.pc = (if s.reg x = s.reg y then s.pc + 4 else s.pc + 2) ∧
        UnchangedBut [.pc] s t) ∧
      ∃ t, exec (.sneReg x y) s = .next t ∧ t.pc = (if s.reg x ≠ s.reg y then s.pc + 4 else s.pc + 2) ∧
        UnchangedBut [.pc] s t

/-! ## Immediate and random -/

/-- LD_IMM and ADD_IMM (42_immediate_random.md R120, R121), with the source's property that a load followed by adding 0
leaves the loaded value. -/
def Obligations.ImmediateResult : Prop :=
  ∀ (x : RegIdx) (kk : Byte),
    decodeWord (wordXK 0x6 x kk) = .ok (.ldImm x kk) ∧ decodeWord (wordXK 0x7 x kk) = .ok (.addImm x kk) ∧
    ∀ s : State,
      (∃ t, exec (.ldImm x kk) s = .next t ∧ (∀ j, t.reg j = if j = x then kk else s.reg j) ∧ t.pc = s.pc + 2 ∧
        UnchangedBut [.V, .pc] s t ∧ ∃ u, exec (.addImm x 0x00) t = .next u ∧ u.reg x = kk) ∧
      ∃ t, exec (.addImm x kk) s = .next t ∧ (t.reg x).toNat = ((s.reg x).toNat + kk.toNat) % 256 ∧
        (∀ j, j ≠ x → t.reg j = s.reg j) ∧ t.pc = s.pc + 2 ∧ UnchangedBut [.V, .pc] s t

/-- RND (42_immediate_random.md R122): one sample `Config.rnd s.draws` of the free input, masked with `kk`. It holds for
every value of the model's counter `draws` (log entry 4; the spec's decision D19). -/
def Obligations.RndResult : Prop :=
  ∀ (x : RegIdx) (kk : Byte), decodeWord (wordXK 0xC x kk) = .ok (.rnd x kk) ∧
    ∀ s : State, ∃ t, exec (.rnd x kk) s = .next t ∧
      (∀ j, t.reg j = if j = x then Config.rnd s.draws &&& kk else s.reg j) ∧ t.reg x &&& ~~~kk = 0 ∧
      t.draws = s.draws + 1 ∧ t.pc = s.pc + 2 ∧ UnchangedBut [.V, .pc, .draws] s t

/-! ## ALU -/

/-- LD_REG, OR, AND, XOR (43_alu.md R131 to R134): only `V[x]` and `pc` change. That VF is no flag of these four, and
their low nibbles, are the spec's decisions D12 and D10. -/
def Obligations.LogicResult : Prop :=
  ∀ x y : RegIdx,
    decodeWord (wordXY 0x8 x y 0x0) = .ok (.ldReg x y) ∧ decodeWord (wordXY 0x8 x y 0x1) = .ok (.or x y) ∧
    decodeWord (wordXY 0x8 x y 0x2) = .ok (.and x y) ∧ decodeWord (wordXY 0x8 x y 0x3) = .ok (.xor x y) ∧
    ∀ s : State,
      (∃ t, exec (.ldReg x y) s = .next t ∧ (∀ j, t.reg j = if j = x then s.reg y else s.reg j) ∧
        t.pc = s.pc + 2 ∧ UnchangedBut [.V, .pc] s t) ∧
      (∃ t, exec (.or x y) s = .next t ∧ (∀ j, t.reg j = if j = x then s.reg x ||| s.reg y else s.reg j) ∧
        t.pc = s.pc + 2 ∧ UnchangedBut [.V, .pc] s t) ∧
      (∃ t, exec (.and x y) s = .next t ∧ (∀ j, t.reg j = if j = x then s.reg x &&& s.reg y else s.reg j) ∧
        t.pc = s.pc + 2 ∧ UnchangedBut [.V, .pc] s t) ∧
      ∃ t, exec (.xor x y) s = .next t ∧ (∀ j, t.reg j = if j = x then s.reg x ^^^ s.reg y else s.reg j) ∧
        t.pc = s.pc + 2 ∧ UnchangedBut [.V, .pc] s t

/-- ADD_REG (43_alu.md R135): the sum mod 256 into `V[x]`, then the carry into VF, which wins when `x = 15`. -/
def Obligations.AddRegResult : Prop :=
  ∀ x y : RegIdx, decodeWord (wordXY 0x8 x y 0x4) = .ok (.addReg x y) ∧
    ∀ s : State, ∃ t, exec (.addReg x y) s = .next t ∧
      (x ≠ 15 → (t.reg x).toNat = ((s.reg x).toNat + (s.reg y).toNat) % 256) ∧
      t.reg 15 = (if 256 ≤ (s.reg x).toNat + (s.reg y).toNat then 0x01 else 0x00) ∧
      (∀ j, j ≠ x → j ≠ 15 → t.reg j = s.reg j) ∧ t.pc = s.pc + 2 ∧ UnchangedBut [.V, .pc] s t

/-- SUB (43_alu.md R136): the difference mod 256 into `V[x]`, then not-borrow into VF, which wins when `x = 15`. -/
def Obligations.SubResult : Prop :=
  ∀ x y : RegIdx, decodeWord (wordXY 0x8 x y 0x5) = .ok (.sub x y) ∧
    ∀ s : State, ∃ t, exec (.sub x y) s = .next t ∧
      (x ≠ 15 → ((t.reg x).toNat : Int) = (((s.reg x).toNat : Int) - (s.reg y).toNat) % 256) ∧
      t.reg 15 = (if (s.reg y).toNat ≤ (s.reg x).toNat then 0x01 else 0x00) ∧
      (∀ j, j ≠ x → j ≠ 15 → t.reg j = s.reg j) ∧ t.pc = s.pc + 2 ∧ UnchangedBut [.V, .pc] s t

/-- SUBN, SHR, SHL (43_alu.md R137 to R139). Their low nibbles and the shift of `V[x]` in place with `y` ignored are the
spec's decisions D10 and D11. -/
def Obligations.SubnShiftResult : Prop :=
  ∀ x y : RegIdx,
    decodeWord (wordXY 0x8 x y 0x7) = .ok (.subn x y) ∧ decodeWord (wordXY 0x8 x y 0x6) = .ok (.shr x y) ∧
    decodeWord (wordXY 0x8 x y 0xE) = .ok (.shl x y) ∧
    ∀ s : State,
      (∃ t, exec (.subn x y) s = .next t ∧
        (x ≠ 15 → ((t.reg x).toNat : Int) = (((s.reg y).toNat : Int) - (s.reg x).toNat) % 256) ∧
        t.reg 15 = (if (s.reg x).toNat ≤ (s.reg y).toNat then 0x01 else 0x00) ∧
        (∀ j, j ≠ x → j ≠ 15 → t.reg j = s.reg j) ∧ t.pc = s.pc + 2 ∧ UnchangedBut [.V, .pc] s t) ∧
      (∃ t, exec (.shr x y) s = .next t ∧ (x ≠ 15 → (t.reg x).toNat = (s.reg x).toNat / 2) ∧
        (t.reg 15).toNat = (s.reg x).toNat % 2 ∧
        (∀ j, j ≠ x → j ≠ 15 → t.reg j = s.reg j) ∧ t.pc = s.pc + 2 ∧ UnchangedBut [.V, .pc] s t) ∧
      ∃ t, exec (.shl x y) s = .next t ∧ (x ≠ 15 → (t.reg x).toNat = (s.reg x).toNat * 2 % 256) ∧
        (t.reg 15).toNat = (s.reg x).toNat / 128 ∧
        (∀ j, j ≠ x → j ≠ 15 → t.reg j = s.reg j) ∧ t.pc = s.pc + 2 ∧ UnchangedBut [.V, .pc] s t

/-! ## Index and memory -/

/-- LD_I and ADD_I (44_index_memory.md R150, R151): `I` alone, with a wrap mod 65536 and no flag. -/
def Obligations.IndexResult : Prop :=
  (∀ nnn : Addr12, decodeWord (wordA 0xA nnn) = .ok (.ldI nnn)) ∧
  (∀ x : RegIdx, decodeWord (wordXK 0xF x 0x1E) = .ok (.addI x)) ∧
  (∀ (s : State) (nnn : Addr12), ∃ t, exec (.ldI nnn) s = .next t ∧ t.I.toNat = nnn.toNat ∧ t.pc = s.pc + 2 ∧
    UnchangedBut [.I, .pc] s t) ∧
  ∀ (s : State) (x : RegIdx), ∃ t, exec (.addI x) s = .next t ∧
    t.I.toNat = (s.I.toNat + (s.reg x).toNat) % 65536 ∧ t.pc = s.pc + 2 ∧ UnchangedBut [.I, .pc] s t

/-- LD_F (44_index_memory.md R152), for every value of the parameter `FX29_BASE` (the spec's decisions D13, D14): both
readings of 90_conflicts.md C1 at once. -/
def Obligations.LdFResult : Prop :=
  ∀ x : RegIdx, decodeWord (wordXK 0xF x 0x29) = .ok (.ldF x) ∧
    ∀ s : State, ∃ t, exec (.ldF x) s = .next t ∧
      t.I.toNat = (s.cfg.fx29Base.toNat + 5 * (s.reg x).toNat) % 65536 ∧ t.pc = s.pc + 2 ∧ UnchangedBut [.I, .pc] s t

/-- LD_B (44_index_memory.md R153): three decimal digits at `I`, `I + 1`, `I + 2`, every other byte as before; past the
space an error. `I` unchanged is the spec's decision D18, the unwrapped sum its D17. -/
def Obligations.LdBResult : Prop :=
  ∀ x : RegIdx, decodeWord (wordXK 0xF x 0x33) = .ok (.ldB x) ∧ ∀ s : State,
    s.effAddr 0 = s.I.toNat ∧ s.effAddr 2 = s.I.toNat + 2 ∧
    (0xFFF < s.effAddr 2 → exec (.ldB x) s = .fault (.outOfBounds .data)) ∧
    (s.effAddr 2 ≤ 0xFFF → ∃ t, exec (.ldB x) s = .next t ∧
      (t.byteAt (s.effAddr 0)).toNat = (s.reg x).toNat / 100 ∧
      (t.byteAt (s.effAddr 0 + 1)).toNat = (s.reg x).toNat / 10 % 10 ∧
      (t.byteAt (s.effAddr 0 + 2)).toNat = (s.reg x).toNat % 10 ∧
      (∀ a : Nat, a < s.effAddr 0 ∨ s.effAddr 0 + 2 < a → t.byteAt a = s.byteAt a) ∧
      t.pc = s.pc + 2 ∧ UnchangedBut [.mem, .pc] s t)

/-- LD_MEM_VX (44_index_memory.md R154): `V[0]` to `V[x]` at `I` to `I + x`, every other byte as before; past the space
an error. `I` unchanged is the spec's decision D18. -/
def Obligations.LdMemVxResult : Prop :=
  ∀ x : RegIdx, decodeWord (wordXK 0xF x 0x55) = .ok (.ldMemVx x) ∧ ∀ s : State,
    s.effAddr 0 = s.I.toNat ∧ s.effAddr x.val = s.I.toNat + x.val ∧
    (0xFFF < s.effAddr x.val → exec (.ldMemVx x) s = .fault (.outOfBounds .data)) ∧
    (s.effAddr x.val ≤ 0xFFF → ∃ t, exec (.ldMemVx x) s = .next t ∧
      (∀ k : RegIdx, k ≤ x → t.byteAt (s.effAddr 0 + k.val) = s.reg k) ∧
      (∀ a : Nat, a < s.effAddr 0 ∨ s.effAddr x.val < a → t.byteAt a = s.byteAt a) ∧
      t.pc = s.pc + 2 ∧ UnchangedBut [.mem, .pc] s t)

/-- LD_VX_MEM (44_index_memory.md R155): `V[0]` to `V[x]` from `I` to `I + x`, the registers above `x` as before; past
the space an error. `I` unchanged is the spec's decision D18. -/
def Obligations.LdVxMemResult : Prop :=
  ∀ x : RegIdx, decodeWord (wordXK 0xF x 0x65) = .ok (.ldVxMem x) ∧ ∀ s : State,
    (0xFFF < s.I.toNat + x.val → exec (.ldVxMem x) s = .fault (.outOfBounds .data)) ∧
    (s.I.toNat + x.val ≤ 0xFFF → ∃ t, exec (.ldVxMem x) s = .next t ∧
      (∀ k : RegIdx, t.reg k = if k ≤ x then s.byteAt (s.I.toNat + k.val) else s.reg k) ∧
      t.pc = s.pc + 2 ∧ UnchangedBut [.V, .pc] s t)

/-- Registers stored by LD_MEM_VX at `a`, `a + 1` are the word the next fetch at `a` runs (20_memory.md R61). -/
def Obligations.StoreThenFetch : Prop :=
  ∀ (s : State) (x k : RegIdx) (i : Instr) (hk : k.val + 1 < 16), s.I.toNat + x.val ≤ 0xFFF → k.val + 1 ≤ x.val →
    decodeWord ((zext16 (s.reg k) <<< 8) ||| zext16 (s.reg ⟨k.val + 1, hk⟩)) = .ok i →
    ∃ t, exec (.ldMemVx x) s = .next t ∧
      ∀ p : Word, p.toNat = s.I.toNat + k.val → step (t.setPc p) = exec i (t.setPc p)

/-- A read returns the value of the most recent write to that byte, and a write changes no other byte
(20_memory.md R57). -/
def Obligations.ReadAfterWrite : Prop :=
  ∀ (s : State) (a b : Nat) (v w : Byte), a ≤ 0xFFF →
    ((s.writeByte a v).writeByte a w).byteAt a = w ∧
    (b ≠ a → ((s.writeByte b w).writeByte a v).byteAt b = (s.writeByte b w).byteAt b) ∧
    UnchangedBut [.mem] s (s.writeByte a v)

/-- Equal memories are equal data: two canonical lists that read alike everywhere are the same list. -/
def Obligations.CanonicalMemoryIsUnique : Prop :=
  ∀ (font : Vector Byte 80) (m n : Memory), Memory.wf font m → Memory.wf font n →
    (∀ a : Nat, Memory.read font m a = Memory.read font n a) → m = n

/-! ## Display -/

/-- CLS (45_display.md R170): every pixel 0, VF untouched. -/
def Obligations.ClsResult : Prop :=
  decodeWord 0x00E0#16 = .ok .cls ∧ ∀ s : State, ∃ t, exec .cls s = .next t ∧
    (∀ px py : Nat, t.fb.pixel px py = false) ∧ t.pc = s.pc + 2 ∧ UnchangedBut [.fb, .pc] s t

/-- DRW, the loop of 45_display.md R171 against the loop-free form of R172: a pixel flips exactly when a 1 bit of the
sprite maps to it, and VF is 1 exactly when such a pixel was lit. Coordinates from the old registers, also when `x` or
`y` is 15, is the spec's decision D16; the bound check before any write and none for `n = 0` its D28. -/
def Obligations.DrwXorsTheSprite : Prop :=
  ∀ (x y : RegIdx) (n : Fin 16), decodeWord (wordXY 0xD x y n) = .ok (.drw x y n) ∧ ∀ s : State,
    (1 ≤ n.val ∧ 0xFFF < s.I.toNat + n.val - 1 → exec (.drw x y n) s = .fault (.outOfBounds .data)) ∧
    (n.val = 0 ∨ s.I.toNat + n.val - 1 ≤ 0xFFF → ∃ t, exec (.drw x y n) s = .next t ∧
      (∀ px py : Nat, px < 64 → py < 32 →
        (t.fb.pixel px py = true ↔
          ((s.fb.pixel px py = true ∧ ¬SpriteCovers s (s.reg x).toNat (s.reg y).toNat n.val px py) ∨
           (s.fb.pixel px py = false ∧ SpriteCovers s (s.reg x).toNat (s.reg y).toNat n.val px py)))) ∧
      (t.reg 15 = 0x01 ∨ t.reg 15 = 0x00) ∧
      (t.reg 15 = 0x01 ↔ ∃ px py : Nat, px < 64 ∧ py < 32 ∧ s.fb.pixel px py = true ∧
        SpriteCovers s (s.reg x).toNat (s.reg y).toNat n.val px py) ∧
      (∀ j, j ≠ 15 → t.reg j = s.reg j) ∧ t.pc = s.pc + 2 ∧ UnchangedBut [.V, .fb, .pc] s t)

/-- Drawing the same sprite twice restores the framebuffer, and the second draw reports a collision exactly when a 1 bit
of the sprite mapped to a pixel that was 0 before the first (45_display.md R173; 90_conflicts.md C11). -/
def Obligations.DrwTwiceRestores : Prop :=
  ∀ (s : State) (x y : RegIdx) (n : Fin 16), x ≠ 15 → y ≠ 15 → n.val = 0 ∨ s.I.toNat + n.val - 1 ≤ 0xFFF →
    ∃ t u, exec (.drw x y n) s = .next t ∧ exec (.drw x y n) t = .next u ∧
      (∀ px py : Nat, u.fb.pixel px py = s.fb.pixel px py) ∧
      (u.reg 15 = 0x01 ↔ ∃ px py : Nat, px < 64 ∧ py < 32 ∧ s.fb.pixel px py = false ∧
        SpriteCovers s (s.reg x).toNat (s.reg y).toNat n.val px py)

/-! ## Keypad and timers -/

/-- SKP and SKNP (46_keypad_timers.md R180, R181): the key numbered by the VALUE of `V[x]`. The error above 15 is the
spec's decision D15. -/
def Obligations.KeySkipResult : Prop :=
  ∀ x : RegIdx, decodeWord (wordXK 0xE x 0x9E) = .ok (.skp x) ∧ decodeWord (wordXK 0xE x 0xA1) = .ok (.sknp x) ∧
    ∀ s : State,
      (15 < (s.reg x).toNat → exec (.skp x) s = .fault (.outOfBounds .keyIndex) ∧
        exec (.sknp x) s = .fault (.outOfBounds .keyIndex)) ∧
      ∀ k : Fin 16, (s.reg x).toNat = k.val →
        (∃ t, exec (.skp x) s = .next t ∧ t.pc = (if s.key[k] = true then s.pc + 4 else s.pc + 2) ∧
          UnchangedBut [.pc] s t) ∧
        ∃ t, exec (.sknp x) s = .next t ∧ t.pc = (if s.key[k] = false then s.pc + 4 else s.pc + 2) ∧
          UnchangedBut [.pc] s t

/-- LD_VX_K (46_keypad_timers.md R182): the lowest key down is stored; with none down nothing changes. The test of
levels is the spec's decision D24. -/
def Obligations.KeyWaitResult : Prop :=
  ∀ x : RegIdx, decodeWord (wordXK 0xF x 0x0A) = .ok (.ldVxK x) ∧ ∀ s : State,
    ((∀ k : Fin 16, s.key[k] = false) → exec (.ldVxK x) s = .next s) ∧
    ∀ k : Fin 16, s.key[k] = true → (∀ j : Fin 16, j < k → s.key[j] = false) →
      ∃ t, exec (.ldVxK x) s = .next t ∧ (t.reg x).toNat = k.val ∧ (∀ j, j ≠ x → t.reg j = s.reg j) ∧
        t.pc = s.pc + 2 ∧ UnchangedBut [.V, .pc] s t

/-- LD_VX_DT, LD_DT_VX, LD_ST_VX (46_keypad_timers.md R183 to R185). -/
def Obligations.TimerAccessResult : Prop :=
  ∀ x : RegIdx,
    decodeWord (wordXK 0xF x 0x07) = .ok (.ldVxDt x) ∧ decodeWord (wordXK 0xF x 0x15) = .ok (.ldDtVx x) ∧
    decodeWord (wordXK 0xF x 0x18) = .ok (.ldStVx x) ∧
    ∀ s : State,
      (∃ t, exec (.ldVxDt x) s = .next t ∧ (∀ j, t.reg j = if j = x then s.DT else s.reg j) ∧ t.pc = s.pc + 2 ∧
        UnchangedBut [.V, .pc] s t) ∧
      (∃ t, exec (.ldDtVx x) s = .next t ∧ t.DT = s.reg x ∧ (tickTimers t).DT.toNat = (s.reg x).toNat - 1 ∧
        t.pc = s.pc + 2 ∧ UnchangedBut [.DT, .pc] s t) ∧
      ∃ t, exec (.ldStVx x) s = .next t ∧ t.ST = s.reg x ∧ (soundActive t = true ↔ 0 < (s.reg x).toNat) ∧
        t.pc = s.pc + 2 ∧ UnchangedBut [.ST, .pc] s t

/-! ## Host operations -/

/-- `tick_timers` (60_exceptions.md R210): each timer counts down by 1 and stays at 0, `v` reads `max(v - n, 0)` after
`n` ticks, nothing else changes, and nothing else decrements a timer (a cycle writes one only through LD_DT_VX and
LD_ST_VX; `new` and `reset` zero both). -/
def Obligations.TickTimersResult : Prop :=
  (∀ s : State, ∃ t, operate .tickTimers s = (.status .ok, t) ∧
    t.DT.toNat = s.DT.toNat - 1 ∧ t.ST.toNat = s.ST.toNat - 1 ∧ UnchangedBut [.DT, .ST] s t) ∧
  (∀ (s : State) (n : Nat), (serve (List.replicate n .tickTimers) s).DT.toNat = s.DT.toNat - n ∧
    (serve (List.replicate n .tickTimers) s).ST.toNat = s.ST.toNat - n) ∧
  (∀ (i : Instr) (s t : State), exec i s = .next t →
    ((∀ x, i ≠ .ldDtVx x) → t.DT = s.DT) ∧ ((∀ x, i ≠ .ldStVx x) → t.ST = s.ST)) ∧
  ∀ (op : HostOp) (s : State), op ≠ .tickTimers → op ≠ .new → op ≠ .reset →
    ((∀ x, op = .cycle → s.fetchInstr ≠ .ok (.ldDtVx x)) → (operate op s).2.DT = s.DT) ∧
    ((∀ x, op = .cycle → s.fetchInstr ≠ .ok (.ldStVx x)) → (operate op s).2.ST = s.ST)

/-- `sound_active` (60_exceptions.md R211): true exactly when `ST > 0`, a pure query that follows `ST` at once. -/
def Obligations.SoundActiveResult : Prop :=
  ∀ s : State, (∃ b, operate .soundActive s = (.sound b, s) ∧ (b = true ↔ 0 < s.ST.toNat)) ∧
    (s.ST.toNat = 1 → soundActive (tickTimers s) = false) ∧
    (∀ x, ∃ t, exec (.ldStVx x) s = .next t ∧ (soundActive t = true ↔ s.reg x ≠ 0)) ∧
    soundActive (operate .reset s).2 = false

/-- `set_key` (60_exceptions.md R212): one flag and nothing else, always `Ok`; the 4-bit index is the spec's decision
D22. -/
def Obligations.SetKeyResult : Prop :=
  ∀ (s : State) (k : Fin 16) (b : Bool), ∃ t, operate (.setKey k b) s = (.status .ok, t) ∧
    (∀ j : Fin 16, t.key[j] = if j = k then b else s.key[j]) ∧ UnchangedBut [.key] s t

/-- The framebuffer port (60_exceptions.md R213): 2048 pixels, `(px, py)` at element `px + 64 * py`, no side effect; the
host cannot write pixels (but for `new` and `reset`, which clear them: 90_conflicts.md C9). -/
def Obligations.FramebufferPort : Prop :=
  (∀ s : State, ∃ pixels, operate .framebuffer s = (.pixels pixels, s) ∧ pixels.length = 2048 ∧
    ∀ px py : Nat, px < 64 → py < 32 → pixels[px + 64 * py]? = some (s.fb.pixel px py)) ∧
  ∀ (op : HostOp) (s : State), op ≠ .cycle → op ≠ .new → op ≠ .reset →
    ∀ px py : Nat, (operate op s).2.fb.pixel px py = s.fb.pixel px py

/-- `load_program` (70_reset_and_hazards.md R233): the bytes from `0x200` and nothing else; more than `0xE00` bytes is
an error that writes nothing. The bytes past the image are untouched by the spec's decision D21. -/
def Obligations.LoadProgramResult : Prop :=
  ∀ (s : State) (bytes : List Byte),
    (0xE00 < bytes.length → operate (.loadProgram bytes) s = (.status (.error (.outOfBounds .image)), s)) ∧
    (bytes.length ≤ 0xE00 → ∃ t, operate (.loadProgram bytes) s = (.status .ok, t) ∧
      (∀ (k : Nat) (h : k < bytes.length), t.byteAt (0x200 + k) = bytes[k]) ∧
      (∀ a : Nat, a < 0x200 ∨ 0x200 + bytes.length ≤ a → t.byteAt a = s.byteAt a) ∧ UnchangedBut [.mem] s t)

/-- The reset values (10_state.md R35). -/
def Obligations.ResetStateValues : Prop := ResetValues State.reset

/-- `reset` and `new` (70_reset_and_hazards.md R230, R231) bring any state to the reset values and always answer `Ok`.
That the random source and the parameters stay as they are is 60_exceptions.md R214 and the model's choice (log entries
1 and 4). -/
def Obligations.ResetOperation : Prop :=
  ∀ s : State, ∃ t, operate .reset s = (.status .ok, t) ∧ operate .new s = (.status .ok, t) ∧ ResetValues t ∧
    t.cfg = s.cfg ∧ t.draws = s.draws

/-- With no program loaded a cycle after reset changes nothing, from whatever state the reset was issued
(70_reset_and_hazards.md R235). -/
def Obligations.ResetThenCycleStalls : Prop :=
  step State.reset = .next State.reset ∧
  ∀ s : State, operate .cycle (operate .reset s).2 = (.status .ok, (operate .reset s).2)

/-- An operation that answers with an error changes no state at all (60_exceptions.md R203; the spec's decision D4). -/
def Obligations.ErrorsChangeNothing : Prop :=
  ∀ (op : HostOp) (s t : State) (r : Fault), operate op s = (.status (.error r), t) → t = s

/-- Which operation can answer which error (60_exceptions.md R200, R202): only `cycle` and `load_program` can fail,
`load_program` only with cause Image, `cycle` never with it; `Ok` is the status of every other state-changing
operation. -/
def Obligations.WhichOperationFailsHow : Prop :=
  (∀ (op : HostOp) (s t : State) (r : Fault), operate op s = (.status (.error r), t) →
    (op = .cycle ∧ r ≠ .outOfBounds .image) ∨ ∃ bytes, op = .loadProgram bytes ∧ r = .outOfBounds .image) ∧
  ∀ (op : HostOp) (s : State) (r : Refusal), (operate op s).1 ≠ .status (.noMeaning r)

/-! ## The whole machine -/

/-- The table of who writes what (10_state.md R37): an instruction that completes changes no other part of the state,
and no register but its named destinations and, for the six flag writers, VF. -/
def Obligations.WhoWritesWhat : Prop :=
  ∀ (i : Instr) (s t : State), exec i s = .next t →
    UnchangedBut (writesOf i) s t ∧
    ∀ j : RegIdx, isDest i j = false → ¬(writesFlag i = true ∧ j = 15) → t.reg j = s.reg j

/-- The six flag writers leave VF at 0 or 1; every other instruction that does not name register 15 as a destination
leaves VF alone (10_state.md R21; the spec's decision D12 for OR, AND, XOR and LD_REG). -/
def Obligations.FlagWriters : Prop :=
  ∀ (i : Instr) (s t : State), exec i s = .next t →
    (writesFlag i = true → t.reg 15 = 0x00 ∨ t.reg 15 = 0x01) ∧
    (writesFlag i = false → isDest i 15 = false → t.reg 15 = s.reg 15)

/-- `ST` cannot be read by any instruction: with another `ST` a step ends with the same error, or completes with the
same state, in which `ST` is the other one kept or, where the instruction wrote it, the same one (10_state.md R30). -/
def Obligations.SoundTimerIsNotRead : Prop :=
  ∀ (s : State) (v : Byte),
    (∀ t, step s = .next t → step (s.setST v) = .next (t.setST v) ∨ step (s.setST v) = .next t) ∧
    ∀ r, step s = .fault r → step (s.setST v) = .fault r

/-- The entries of the call stack at `sp` and above cannot be observed: states that differ only there step alike and
still differ only there (10_state.md R24). -/
def Obligations.StaleStackIsUnobservable : Prop :=
  ∀ (s : State) (other : Vector Word 16), (∀ k : Fin 16, k.val < s.sp.val → other[k] = s.stack[k]) →
    (∀ t, step s = .next t → ∃ after : Vector Word 16, step { s with stack := other } = .next { t with stack := after } ∧
      ∀ k : Fin 16, k.val < t.sp.val → after[k] = t.stack[k]) ∧
    ∀ r, step s = .fault r → step { s with stack := other } = .fault r

/-- When a cycle fetches, `pc + 2` and `pc + 4` do not wrap (10_state.md R36). -/
def Obligations.PcDoesNotWrap : Prop :=
  ∀ (s : State) (i : Instr), s.fetchInstr = .ok i →
    (s.pc + 2).toNat = s.pc.toNat + 2 ∧ (s.pc + 4).toNat = s.pc.toNat + 4

/-- The invariant holds at reset: the bounds of 10_state.md R36, and memory canonical. The canonical form is the model's
own representation (log entry 11), no rule of the spec. -/
def Obligations.InvariantAtReset : Prop := Inv State.reset

/-- Every step keeps the invariant: `pc <= 0x10FE` and stack entries at most `0x1000` (10_state.md R36), and memory
canonical, which is the model's own representation (log entry 11), no rule of the spec. -/
def Obligations.StepKeepsInvariant : Prop :=
  ∀ s t : State, Inv s → step s = .next t → Inv t

/-- Every sequence of host operations keeps the invariant, errors included: the bounds of 10_state.md R36, under any
operations (00_scope.md R6), and memory canonical, which is the model's own representation (log entry 11), no rule of
the spec. -/
def Obligations.HostRunsKeepInvariant : Prop :=
  ∀ (ops : List HostOp) (s : State), Inv s → Inv (serve ops s)
end

