-- ==== Sys2Proof/Laws/State.lean ====
section
/-! SUPPORT. One lemma for each field of State under each named update, so that no later proof unfolds a record update. -/

namespace Sys2Proof.Machine

variable (s : State)

/-! `State.setReg` changes `V` only. -/

@[simp] theorem State.setReg_V (x : RegIdx) (v : Byte) : (s.setReg x v).V = s.V.set x v := rfl
@[simp] theorem State.setReg_I (x : RegIdx) (v : Byte) : (s.setReg x v).I = s.I := rfl
@[simp] theorem State.setReg_pc (x : RegIdx) (v : Byte) : (s.setReg x v).pc = s.pc := rfl
@[simp] theorem State.setReg_sp (x : RegIdx) (v : Byte) : (s.setReg x v).sp = s.sp := rfl
@[simp] theorem State.setReg_stack (x : RegIdx) (v : Byte) : (s.setReg x v).stack = s.stack := rfl
@[simp] theorem State.setReg_DT (x : RegIdx) (v : Byte) : (s.setReg x v).DT = s.DT := rfl
@[simp] theorem State.setReg_ST (x : RegIdx) (v : Byte) : (s.setReg x v).ST = s.ST := rfl
@[simp] theorem State.setReg_mem (x : RegIdx) (v : Byte) : (s.setReg x v).mem = s.mem := rfl
@[simp] theorem State.setReg_fb (x : RegIdx) (v : Byte) : (s.setReg x v).fb = s.fb := rfl
@[simp] theorem State.setReg_key (x : RegIdx) (v : Byte) : (s.setReg x v).key = s.key := rfl
@[simp] theorem State.setReg_cfg (x : RegIdx) (v : Byte) : (s.setReg x v).cfg = s.cfg := rfl
@[simp] theorem State.setReg_draws (x : RegIdx) (v : Byte) : (s.setReg x v).draws = s.draws := rfl

/-! `State.setVF` changes `V` only. -/

@[simp] theorem State.setVF_V (v : Byte) : (s.setVF v).V = s.V.set 15 v := rfl
@[simp] theorem State.setVF_I (v : Byte) : (s.setVF v).I = s.I := rfl
@[simp] theorem State.setVF_pc (v : Byte) : (s.setVF v).pc = s.pc := rfl
@[simp] theorem State.setVF_sp (v : Byte) : (s.setVF v).sp = s.sp := rfl
@[simp] theorem State.setVF_stack (v : Byte) : (s.setVF v).stack = s.stack := rfl
@[simp] theorem State.setVF_DT (v : Byte) : (s.setVF v).DT = s.DT := rfl
@[simp] theorem State.setVF_ST (v : Byte) : (s.setVF v).ST = s.ST := rfl
@[simp] theorem State.setVF_mem (v : Byte) : (s.setVF v).mem = s.mem := rfl
@[simp] theorem State.setVF_fb (v : Byte) : (s.setVF v).fb = s.fb := rfl
@[simp] theorem State.setVF_key (v : Byte) : (s.setVF v).key = s.key := rfl
@[simp] theorem State.setVF_cfg (v : Byte) : (s.setVF v).cfg = s.cfg := rfl
@[simp] theorem State.setVF_draws (v : Byte) : (s.setVF v).draws = s.draws := rfl

/-! `State.setI` changes `I` only. -/

@[simp] theorem State.setI_V (v : Word) : (s.setI v).V = s.V := rfl
@[simp] theorem State.setI_I (v : Word) : (s.setI v).I = v := rfl
@[simp] theorem State.setI_pc (v : Word) : (s.setI v).pc = s.pc := rfl
@[simp] theorem State.setI_sp (v : Word) : (s.setI v).sp = s.sp := rfl
@[simp] theorem State.setI_stack (v : Word) : (s.setI v).stack = s.stack := rfl
@[simp] theorem State.setI_DT (v : Word) : (s.setI v).DT = s.DT := rfl
@[simp] theorem State.setI_ST (v : Word) : (s.setI v).ST = s.ST := rfl
@[simp] theorem State.setI_mem (v : Word) : (s.setI v).mem = s.mem := rfl
@[simp] theorem State.setI_fb (v : Word) : (s.setI v).fb = s.fb := rfl
@[simp] theorem State.setI_key (v : Word) : (s.setI v).key = s.key := rfl
@[simp] theorem State.setI_cfg (v : Word) : (s.setI v).cfg = s.cfg := rfl
@[simp] theorem State.setI_draws (v : Word) : (s.setI v).draws = s.draws := rfl

/-! `State.setDT` changes `DT` only. -/

@[simp] theorem State.setDT_V (v : Byte) : (s.setDT v).V = s.V := rfl
@[simp] theorem State.setDT_I (v : Byte) : (s.setDT v).I = s.I := rfl
@[simp] theorem State.setDT_pc (v : Byte) : (s.setDT v).pc = s.pc := rfl
@[simp] theorem State.setDT_sp (v : Byte) : (s.setDT v).sp = s.sp := rfl
@[simp] theorem State.setDT_stack (v : Byte) : (s.setDT v).stack = s.stack := rfl
@[simp] theorem State.setDT_DT (v : Byte) : (s.setDT v).DT = v := rfl
@[simp] theorem State.setDT_ST (v : Byte) : (s.setDT v).ST = s.ST := rfl
@[simp] theorem State.setDT_mem (v : Byte) : (s.setDT v).mem = s.mem := rfl
@[simp] theorem State.setDT_fb (v : Byte) : (s.setDT v).fb = s.fb := rfl
@[simp] theorem State.setDT_key (v : Byte) : (s.setDT v).key = s.key := rfl
@[simp] theorem State.setDT_cfg (v : Byte) : (s.setDT v).cfg = s.cfg := rfl
@[simp] theorem State.setDT_draws (v : Byte) : (s.setDT v).draws = s.draws := rfl

/-! `State.setST` changes `ST` only. -/

@[simp] theorem State.setST_V (v : Byte) : (s.setST v).V = s.V := rfl
@[simp] theorem State.setST_I (v : Byte) : (s.setST v).I = s.I := rfl
@[simp] theorem State.setST_pc (v : Byte) : (s.setST v).pc = s.pc := rfl
@[simp] theorem State.setST_sp (v : Byte) : (s.setST v).sp = s.sp := rfl
@[simp] theorem State.setST_stack (v : Byte) : (s.setST v).stack = s.stack := rfl
@[simp] theorem State.setST_DT (v : Byte) : (s.setST v).DT = s.DT := rfl
@[simp] theorem State.setST_ST (v : Byte) : (s.setST v).ST = v := rfl
@[simp] theorem State.setST_mem (v : Byte) : (s.setST v).mem = s.mem := rfl
@[simp] theorem State.setST_fb (v : Byte) : (s.setST v).fb = s.fb := rfl
@[simp] theorem State.setST_key (v : Byte) : (s.setST v).key = s.key := rfl
@[simp] theorem State.setST_cfg (v : Byte) : (s.setST v).cfg = s.cfg := rfl
@[simp] theorem State.setST_draws (v : Byte) : (s.setST v).draws = s.draws := rfl

/-! `State.setFb` changes `fb` only. -/

@[simp] theorem State.setFb_V (fb : Framebuffer) : (s.setFb fb).V = s.V := rfl
@[simp] theorem State.setFb_I (fb : Framebuffer) : (s.setFb fb).I = s.I := rfl
@[simp] theorem State.setFb_pc (fb : Framebuffer) : (s.setFb fb).pc = s.pc := rfl
@[simp] theorem State.setFb_sp (fb : Framebuffer) : (s.setFb fb).sp = s.sp := rfl
@[simp] theorem State.setFb_stack (fb : Framebuffer) : (s.setFb fb).stack = s.stack := rfl
@[simp] theorem State.setFb_DT (fb : Framebuffer) : (s.setFb fb).DT = s.DT := rfl
@[simp] theorem State.setFb_ST (fb : Framebuffer) : (s.setFb fb).ST = s.ST := rfl
@[simp] theorem State.setFb_mem (fb : Framebuffer) : (s.setFb fb).mem = s.mem := rfl
@[simp] theorem State.setFb_fb (fb : Framebuffer) : (s.setFb fb).fb = fb := rfl
@[simp] theorem State.setFb_key (fb : Framebuffer) : (s.setFb fb).key = s.key := rfl
@[simp] theorem State.setFb_cfg (fb : Framebuffer) : (s.setFb fb).cfg = s.cfg := rfl
@[simp] theorem State.setFb_draws (fb : Framebuffer) : (s.setFb fb).draws = s.draws := rfl

/-! `State.setKeyFlag` changes `key` only. -/

@[simp] theorem State.setKeyFlag_V (k : Fin 16) (b : Bool) : (s.setKeyFlag k b).V = s.V := rfl
@[simp] theorem State.setKeyFlag_I (k : Fin 16) (b : Bool) : (s.setKeyFlag k b).I = s.I := rfl
@[simp] theorem State.setKeyFlag_pc (k : Fin 16) (b : Bool) : (s.setKeyFlag k b).pc = s.pc := rfl
@[simp] theorem State.setKeyFlag_sp (k : Fin 16) (b : Bool) : (s.setKeyFlag k b).sp = s.sp := rfl
@[simp] theorem State.setKeyFlag_stack (k : Fin 16) (b : Bool) : (s.setKeyFlag k b).stack = s.stack := rfl
@[simp] theorem State.setKeyFlag_DT (k : Fin 16) (b : Bool) : (s.setKeyFlag k b).DT = s.DT := rfl
@[simp] theorem State.setKeyFlag_ST (k : Fin 16) (b : Bool) : (s.setKeyFlag k b).ST = s.ST := rfl
@[simp] theorem State.setKeyFlag_mem (k : Fin 16) (b : Bool) : (s.setKeyFlag k b).mem = s.mem := rfl
@[simp] theorem State.setKeyFlag_fb (k : Fin 16) (b : Bool) : (s.setKeyFlag k b).fb = s.fb := rfl
@[simp] theorem State.setKeyFlag_key (k : Fin 16) (b : Bool) : (s.setKeyFlag k b).key = s.key.set k b := rfl
@[simp] theorem State.setKeyFlag_cfg (k : Fin 16) (b : Bool) : (s.setKeyFlag k b).cfg = s.cfg := rfl
@[simp] theorem State.setKeyFlag_draws (k : Fin 16) (b : Bool) : (s.setKeyFlag k b).draws = s.draws := rfl

/-! `State.setPc` changes `pc` only. -/

@[simp] theorem State.setPc_V (p : Word) : (s.setPc p).V = s.V := rfl
@[simp] theorem State.setPc_I (p : Word) : (s.setPc p).I = s.I := rfl
@[simp] theorem State.setPc_pc (p : Word) : (s.setPc p).pc = p := rfl
@[simp] theorem State.setPc_sp (p : Word) : (s.setPc p).sp = s.sp := rfl
@[simp] theorem State.setPc_stack (p : Word) : (s.setPc p).stack = s.stack := rfl
@[simp] theorem State.setPc_DT (p : Word) : (s.setPc p).DT = s.DT := rfl
@[simp] theorem State.setPc_ST (p : Word) : (s.setPc p).ST = s.ST := rfl
@[simp] theorem State.setPc_mem (p : Word) : (s.setPc p).mem = s.mem := rfl
@[simp] theorem State.setPc_fb (p : Word) : (s.setPc p).fb = s.fb := rfl
@[simp] theorem State.setPc_key (p : Word) : (s.setPc p).key = s.key := rfl
@[simp] theorem State.setPc_cfg (p : Word) : (s.setPc p).cfg = s.cfg := rfl
@[simp] theorem State.setPc_draws (p : Word) : (s.setPc p).draws = s.draws := rfl

/-! `State.advance` changes `pc` only. -/

@[simp] theorem State.advance_V : (s.advance).V = s.V := rfl
@[simp] theorem State.advance_I : (s.advance).I = s.I := rfl
@[simp] theorem State.advance_pc : (s.advance).pc = s.pc + 2 := rfl
@[simp] theorem State.advance_sp : (s.advance).sp = s.sp := rfl
@[simp] theorem State.advance_stack : (s.advance).stack = s.stack := rfl
@[simp] theorem State.advance_DT : (s.advance).DT = s.DT := rfl
@[simp] theorem State.advance_ST : (s.advance).ST = s.ST := rfl
@[simp] theorem State.advance_mem : (s.advance).mem = s.mem := rfl
@[simp] theorem State.advance_fb : (s.advance).fb = s.fb := rfl
@[simp] theorem State.advance_key : (s.advance).key = s.key := rfl
@[simp] theorem State.advance_cfg : (s.advance).cfg = s.cfg := rfl
@[simp] theorem State.advance_draws : (s.advance).draws = s.draws := rfl

/-! `State.skipIf` changes `pc` only. -/

@[simp] theorem State.skipIf_V (c : Bool) : (s.skipIf c).V = s.V := rfl
@[simp] theorem State.skipIf_I (c : Bool) : (s.skipIf c).I = s.I := rfl
@[simp] theorem State.skipIf_pc (c : Bool) : (s.skipIf c).pc = if c then s.pc + 4 else s.pc + 2 := rfl
@[simp] theorem State.skipIf_sp (c : Bool) : (s.skipIf c).sp = s.sp := rfl
@[simp] theorem State.skipIf_stack (c : Bool) : (s.skipIf c).stack = s.stack := rfl
@[simp] theorem State.skipIf_DT (c : Bool) : (s.skipIf c).DT = s.DT := rfl
@[simp] theorem State.skipIf_ST (c : Bool) : (s.skipIf c).ST = s.ST := rfl
@[simp] theorem State.skipIf_mem (c : Bool) : (s.skipIf c).mem = s.mem := rfl
@[simp] theorem State.skipIf_fb (c : Bool) : (s.skipIf c).fb = s.fb := rfl
@[simp] theorem State.skipIf_key (c : Bool) : (s.skipIf c).key = s.key := rfl
@[simp] theorem State.skipIf_cfg (c : Bool) : (s.skipIf c).cfg = s.cfg := rfl
@[simp] theorem State.skipIf_draws (c : Bool) : (s.skipIf c).draws = s.draws := rfl

/-! `State.writeByte` changes `mem` only. -/

@[simp] theorem State.writeByte_V (a : Nat) (v : Byte) : (s.writeByte a v).V = s.V := rfl
@[simp] theorem State.writeByte_I (a : Nat) (v : Byte) : (s.writeByte a v).I = s.I := rfl
@[simp] theorem State.writeByte_pc (a : Nat) (v : Byte) : (s.writeByte a v).pc = s.pc := rfl
@[simp] theorem State.writeByte_sp (a : Nat) (v : Byte) : (s.writeByte a v).sp = s.sp := rfl
@[simp] theorem State.writeByte_stack (a : Nat) (v : Byte) : (s.writeByte a v).stack = s.stack := rfl
@[simp] theorem State.writeByte_DT (a : Nat) (v : Byte) : (s.writeByte a v).DT = s.DT := rfl
@[simp] theorem State.writeByte_ST (a : Nat) (v : Byte) : (s.writeByte a v).ST = s.ST := rfl
@[simp] theorem State.writeByte_mem (a : Nat) (v : Byte) : (s.writeByte a v).mem = Memory.write s.cfg.font s.mem a v := rfl
@[simp] theorem State.writeByte_fb (a : Nat) (v : Byte) : (s.writeByte a v).fb = s.fb := rfl
@[simp] theorem State.writeByte_key (a : Nat) (v : Byte) : (s.writeByte a v).key = s.key := rfl
@[simp] theorem State.writeByte_cfg (a : Nat) (v : Byte) : (s.writeByte a v).cfg = s.cfg := rfl
@[simp] theorem State.writeByte_draws (a : Nat) (v : Byte) : (s.writeByte a v).draws = s.draws := rfl

/-! `State.loadRegs` changes `V` only. -/

@[simp] theorem State.loadRegs_V (bytes : List Byte) : (s.loadRegs bytes).V = s.V.mapFinIdx fun k v _ => (bytes[k]?).getD v := rfl
@[simp] theorem State.loadRegs_I (bytes : List Byte) : (s.loadRegs bytes).I = s.I := rfl
@[simp] theorem State.loadRegs_pc (bytes : List Byte) : (s.loadRegs bytes).pc = s.pc := rfl
@[simp] theorem State.loadRegs_sp (bytes : List Byte) : (s.loadRegs bytes).sp = s.sp := rfl
@[simp] theorem State.loadRegs_stack (bytes : List Byte) : (s.loadRegs bytes).stack = s.stack := rfl
@[simp] theorem State.loadRegs_DT (bytes : List Byte) : (s.loadRegs bytes).DT = s.DT := rfl
@[simp] theorem State.loadRegs_ST (bytes : List Byte) : (s.loadRegs bytes).ST = s.ST := rfl
@[simp] theorem State.loadRegs_mem (bytes : List Byte) : (s.loadRegs bytes).mem = s.mem := rfl
@[simp] theorem State.loadRegs_fb (bytes : List Byte) : (s.loadRegs bytes).fb = s.fb := rfl
@[simp] theorem State.loadRegs_key (bytes : List Byte) : (s.loadRegs bytes).key = s.key := rfl
@[simp] theorem State.loadRegs_cfg (bytes : List Byte) : (s.loadRegs bytes).cfg = s.cfg := rfl
@[simp] theorem State.loadRegs_draws (bytes : List Byte) : (s.loadRegs bytes).draws = s.draws := rfl

/-! `State.sample` advances `draws` only. -/

@[simp] theorem State.sample_byte : s.sample.1 = Config.rnd s.draws := rfl
@[simp] theorem State.sample_V : s.sample.2.V = s.V := rfl
@[simp] theorem State.sample_I : s.sample.2.I = s.I := rfl
@[simp] theorem State.sample_pc : s.sample.2.pc = s.pc := rfl
@[simp] theorem State.sample_sp : s.sample.2.sp = s.sp := rfl
@[simp] theorem State.sample_stack : s.sample.2.stack = s.stack := rfl
@[simp] theorem State.sample_DT : s.sample.2.DT = s.DT := rfl
@[simp] theorem State.sample_ST : s.sample.2.ST = s.ST := rfl
@[simp] theorem State.sample_mem : s.sample.2.mem = s.mem := rfl
@[simp] theorem State.sample_fb : s.sample.2.fb = s.fb := rfl
@[simp] theorem State.sample_key : s.sample.2.key = s.key := rfl
@[simp] theorem State.sample_cfg : s.sample.2.cfg = s.cfg := rfl
@[simp] theorem State.sample_draws : s.sample.2.draws = s.draws + 1 := rfl

/-! `State.writeBytes` changes `mem` only. -/

@[simp] theorem State.writeBytes_V (a : Nat) (bytes : List Byte) : (s.writeBytes a bytes).V = s.V := rfl
@[simp] theorem State.writeBytes_I (a : Nat) (bytes : List Byte) : (s.writeBytes a bytes).I = s.I := rfl
@[simp] theorem State.writeBytes_pc (a : Nat) (bytes : List Byte) : (s.writeBytes a bytes).pc = s.pc := rfl
@[simp] theorem State.writeBytes_sp (a : Nat) (bytes : List Byte) : (s.writeBytes a bytes).sp = s.sp := rfl
@[simp] theorem State.writeBytes_stack (a : Nat) (bytes : List Byte) : (s.writeBytes a bytes).stack = s.stack := rfl
@[simp] theorem State.writeBytes_DT (a : Nat) (bytes : List Byte) : (s.writeBytes a bytes).DT = s.DT := rfl
@[simp] theorem State.writeBytes_ST (a : Nat) (bytes : List Byte) : (s.writeBytes a bytes).ST = s.ST := rfl
@[simp] theorem State.writeBytes_mem (a : Nat) (bytes : List Byte) : (s.writeBytes a bytes).mem = Memory.writeList s.cfg.font s.mem a bytes := rfl
@[simp] theorem State.writeBytes_fb (a : Nat) (bytes : List Byte) : (s.writeBytes a bytes).fb = s.fb := rfl
@[simp] theorem State.writeBytes_key (a : Nat) (bytes : List Byte) : (s.writeBytes a bytes).key = s.key := rfl
@[simp] theorem State.writeBytes_cfg (a : Nat) (bytes : List Byte) : (s.writeBytes a bytes).cfg = s.cfg := rfl
@[simp] theorem State.writeBytes_draws (a : Nat) (bytes : List Byte) : (s.writeBytes a bytes).draws = s.draws := rfl

theorem State.writeBytes_nil (a : Nat) : s.writeBytes a [] = s := rfl

theorem State.writeBytes_cons (a : Nat) (v : Byte) (vs : List Byte) :
    s.writeBytes a (v :: vs) = (s.writeByte a v).writeBytes (a + 1) vs := rfl

end Sys2Proof.Machine
end

