-- ==== Sys2Proof/Laws/Memory.lean ====
section
/-! SUPPORT. What the memory operations do: a read after a write, and the canonical form kept (spec/20_memory.md R57). -/

namespace Sys2Proof.Machine

theorem Memory.lookup_erase (m : Memory) (a b : Nat) :
    Memory.lookup (Memory.erase m a) b = if b = a then none else Memory.lookup m b := by
  induction m with
  | nil => simp [Memory.erase, Memory.lookup]
  | cons c m ih =>
    obtain ⟨k, w⟩ := c
    simp only [Memory.erase] at ih
    by_cases hk : k = a
    · subst hk
      by_cases hb : b = k
      · subst hb; simpa [Memory.erase] using ih
      · simp [Memory.erase, Memory.lookup, ih, hb]
    · by_cases hb : b = k
      · subst hb; simp [Memory.erase, Memory.lookup, hk]
      · simp [Memory.erase, Memory.lookup, hk, hb, ih]

theorem Memory.lookup_insert (m : Memory) (a b : Nat) (v : Byte) (h : Memory.lookup m a = none) :
    Memory.lookup (Memory.insert m a v) b = if b = a then some v else Memory.lookup m b := by
  induction m with
  | nil => simp [Memory.insert, Memory.lookup]
  | cons c m ih =>
    obtain ⟨k, w⟩ := c
    have hk : a ≠ k := by intro e; simp [Memory.lookup, e] at h
    have hm : Memory.lookup m a = none := by simpa [Memory.lookup, hk] using h
    by_cases hlt : a < k
    · simp [Memory.insert, hlt, Memory.lookup]
    · by_cases hb : b = k
      · subst hb; simp [Memory.insert, hlt, Memory.lookup, Ne.symm hk]
      · simp [Memory.insert, hlt, Memory.lookup, hb, ih hm]

/-- A read after a write: the value written, where it was written and the space has an address; every other byte as
before. -/
theorem Memory.read_write (font : Vector Byte 80) (m : Memory) (a b : Nat) (v : Byte) :
    Memory.read font (Memory.write font m a v) b
      = if b = a ∧ a ≤ 0xFFF then v else Memory.read font m b := by
  unfold Memory.write
  by_cases ha : a ≤ 0xFFF
  · by_cases hv : v = Memory.unlisted font a
    · by_cases hb : b = a
      · simp [ha, hv, hb, Memory.read, Memory.lookup_erase]
      · simp [ha, hv, hb, Memory.read, Memory.lookup_erase]
    · have hn : Memory.lookup (Memory.erase m a) a = none := by simp [Memory.lookup_erase]
      by_cases hb : b = a
      · simp [ha, hv, hb, Memory.read, Memory.lookup_insert _ _ _ _ hn]
      · simp [ha, hv, hb, Memory.read, Memory.lookup_insert _ _ _ _ hn, Memory.lookup_erase]
  · simp [ha]

theorem Memory.mem_insert (m : Memory) (a : Nat) (v : Byte) (c : Host.Cell) :
    c ∈ Memory.insert m a v ↔ c = (a, v) ∨ c ∈ m := by
  induction m with
  | nil => simp [Memory.insert]
  | cons d m ih =>
    obtain ⟨k, w⟩ := d
    by_cases h : a < k
    · simp [Memory.insert, h]
    · simp only [Memory.insert, h, if_false, List.mem_cons, ih]
      tauto

theorem Memory.insert_sorted (m : Memory) (a : Nat) (v : Byte) (hs : m.Pairwise fun c d => c.1 < d.1)
    (ha : ∀ c ∈ m, c.1 ≠ a) : (Memory.insert m a v).Pairwise fun c d => c.1 < d.1 := by
  induction m with
  | nil => simp [Memory.insert]
  | cons d m ih =>
    obtain ⟨k, w⟩ := d
    obtain ⟨hd, hm⟩ := List.pairwise_cons.1 hs
    by_cases h : a < k
    · simp only [Memory.insert, h, if_true]
      refine List.pairwise_cons.2 ⟨?_, hs⟩
      intro c hc
      rcases List.mem_cons.1 hc with rfl | hc
      · exact h
      · exact h.trans (hd c hc)
    · simp only [Memory.insert, h, if_false]
      refine List.pairwise_cons.2 ⟨?_, ih hm fun c hc => ha c (List.mem_cons_of_mem _ hc)⟩
      intro c hc
      have hka : k ≠ a := ha (k, w) List.mem_cons_self
      rcases (Memory.mem_insert m a v c).1 hc with rfl | hc
      · show k < a
        omega
      · exact hd c hc

theorem Memory.wf_nil (font : Vector Byte 80) : Memory.wf font [] := by simp [Memory.wf]

/-- A write keeps the canonical form. -/
theorem Memory.wf_write {font : Vector Byte 80} {m : Memory} (h : Memory.wf font m) (a : Nat) (v : Byte) :
    Memory.wf font (Memory.write font m a v) := by
  obtain ⟨hs, hc⟩ := h
  have he : (Memory.erase m a).Pairwise fun c d => c.1 < d.1 := hs.filter _
  unfold Memory.write
  split_ifs with ha hv
  · exact ⟨he, fun c hm => hc c (List.mem_filter.1 hm).1⟩
  · refine ⟨Memory.insert_sorted _ _ _ he fun c hm => by simpa using (List.mem_filter.1 hm).2, ?_⟩
    intro c hm
    rcases (Memory.mem_insert _ _ _ _).1 hm with rfl | hm
    · exact ⟨ha, hv⟩
    · exact hc c (List.mem_filter.1 hm).1
  · exact ⟨hs, hc⟩

/-- One stored byte reads back, and every other byte of memory is as before. -/
theorem State.byteAt_writeByte (s : State) (a b : Nat) (v : Byte) :
    (s.writeByte a v).byteAt b = if b = a ∧ a ≤ 0xFFF then v else s.byteAt b :=
  Memory.read_write s.cfg.font s.mem a b v

/-- Stored bytes read back at ascending addresses inside the space; every other byte of memory is as before. -/
theorem State.byteAt_writeBytes (s : State) (a b : Nat) (vs : List Byte) :
    (s.writeBytes a vs).byteAt b
      = if a ≤ b ∧ b < a + vs.length ∧ b ≤ 0xFFF then vs.getD (b - a) 0 else s.byteAt b := by
  induction vs generalizing s a with
  | nil => rw [State.writeBytes_nil, if_neg (by simp; omega)]
  | cons v vs ih =>
    rw [State.writeBytes_cons, ih, State.byteAt_writeByte, List.length_cons]
    by_cases h1 : a + 1 ≤ b ∧ b < a + 1 + vs.length ∧ b ≤ 0xFFF
    · have h2 : a ≤ b ∧ b < a + (vs.length + 1) ∧ b ≤ 0xFFF := by omega
      obtain ⟨k, rfl⟩ : ∃ k, b = a + 1 + k := ⟨b - (a + 1), by omega⟩
      rw [if_pos h1, if_pos h2, show a + 1 + k - (a + 1) = k by omega, show a + 1 + k - a = k + 1 by omega]
      rfl
    · by_cases h3 : b = a ∧ a ≤ 0xFFF
      · have h2 : a ≤ b ∧ b < a + (vs.length + 1) ∧ b ≤ 0xFFF := by omega
        rw [if_neg h1, if_pos h3, if_pos h2, h3.1]
        simp
      · have h2 : ¬(a ≤ b ∧ b < a + (vs.length + 1) ∧ b ≤ 0xFFF) := by omega
        rw [if_neg h1, if_neg h3, if_neg h2]

/-- Storing bytes keeps the canonical form. -/
theorem State.wf_writeBytes (s : State) (a : Nat) (vs : List Byte) (h : Memory.wf s.cfg.font s.mem) :
    Memory.wf s.cfg.font (s.writeBytes a vs).mem := by
  induction vs generalizing s a with
  | nil => exact h
  | cons v vs ih => exact ih (s.writeByte a v) (a + 1) (Memory.wf_write h a v)

/-- The reset memory has the canonical form. -/
theorem State.reset_wf : Memory.wf State.reset.cfg.font State.reset.mem := Memory.wf_nil _

/-- Memory reads depend on the memory and the font only. -/
theorem State.byteAt_congr {s t : State} (hm : t.mem = s.mem) (hc : t.cfg = s.cfg) (a : Nat) :
    t.byteAt a = s.byteAt a := by simp [State.byteAt, hm, hc]

end Sys2Proof.Machine
end

