-- ==== Sys2Proof/Laws/Ops.lean ====
section
/-! SUPPORT. One lemma for each shared operation that says what it does. -/

namespace Sys2Proof.Machine

variable (s : State)

/-! ## Registers -/

theorem State.reg_setReg (x j : RegIdx) (v : Byte) : (s.setReg x v).reg j = if j = x then v else s.reg j := by
  simp only [State.reg, State.setReg_V, Fin.getElem_fin, Vector.getElem_set, Fin.ext_iff, eq_comm]

theorem State.reg_setVF (j : RegIdx) (v : Byte) : (s.setVF v).reg j = if j = 15 then v else s.reg j :=
  State.reg_setReg s 15 j v

/-- A register reads the same in two states with the same registers. -/
theorem State.reg_congr {s t : State} (h : t.V = s.V) (j : RegIdx) : t.reg j = s.reg j := by simp [State.reg, h]

/-- Result first, flag last: with `x = 15` the flag wins (43_alu.md R130 (b)). -/
theorem State.reg_writeWithFlag (x j : RegIdx) (r : Byte × Bool) :
    (s.writeWithFlag x r).reg j = if j = 15 then flagByte r.2 else if j = x then r.1 else s.reg j := by
  rw [State.writeWithFlag, State.reg_congr (State.advance_V _), State.reg_setVF, State.reg_setReg]

theorem State.readBytes_getElem? (a n k : Nat) :
    (s.readBytes a n)[k]? = if k < n then some (s.byteAt (a + k)) else none := by
  by_cases h : k < n <;> simp [State.readBytes, h]

@[simp] theorem State.readBytes_length (a n : Nat) : (s.readBytes a n).length = n := by simp [State.readBytes]

theorem State.reg_loadRegs (bytes : List Byte) (j : RegIdx) :
    (s.loadRegs bytes).reg j = (bytes[j.val]?).getD (s.reg j) := by
  simp [State.reg]

@[simp] theorem State.regsUpTo_length (x : RegIdx) : (s.regsUpTo x).length = x.val + 1 := by
  simp [State.regsUpTo]

theorem State.regsUpTo_getElem? (x : RegIdx) (k : Nat) (h : k ≤ x.val) :
    (s.regsUpTo x)[k]? = some (s.reg ⟨k, by omega⟩) := by
  simp [State.regsUpTo, State.reg, Nat.lt_succ_of_le h]

/-! ## The call stack -/

/-- A push answers exactly when fewer than 16 entries are in use, and writes the entry at the old `sp`. -/
theorem State.push?_eq_some {v : Word} {t : State} :
    s.push? v = some t ↔ ∃ h : s.sp.val < 16,
      t = { s with stack := s.stack.set s.sp.val v, sp := ⟨s.sp.val + 1, by omega⟩ } := by
  unfold State.push?
  split <;> rename_i h
  · simp [h, eq_comm]
  · simp [h]

theorem State.push?_eq_none (v : Word) : s.push? v = none ↔ s.sp.val = 16 := by
  unfold State.push?
  split <;> rename_i h <;> simp <;> omega

/-- A pop answers exactly when an entry is in use: the top one, which keeps its contents. -/
theorem State.pop?_eq_some {r : Word × State} :
    s.pop? = some r ↔ ∃ h : 0 < s.sp.val,
      r = (s.stack[s.sp.val - 1], { s with sp := ⟨s.sp.val - 1, by omega⟩ }) := by
  unfold State.pop?
  split <;> rename_i h
  · simp [h, eq_comm]
  · simp [h]

theorem State.pop?_eq_none : s.pop? = none ↔ s.sp.val = 0 := by
  unfold State.pop?
  split <;> rename_i h <;> simp <;> omega

/-! ## Errors and control -/

theorem guardData_eq_next {highest : Nat} {k : Result} {t : State} :
    guardData highest k = .next t ↔ highest ≤ 0xFFF ∧ k = .next t := by
  unfold guardData raise
  split
  · simp; omega
  · simp; omega

theorem guardData_eq_fault {highest : Nat} {t : State} {r : Fault} :
    guardData highest (.next t) = .fault r ↔ 0xFFF < highest ∧ r = .outOfBounds .data := by
  unfold guardData raise
  split <;> simp_all [eq_comm]

theorem guardData_of_le {highest : Nat} {k : Result} (h : highest ≤ 0xFFF) : guardData highest k = k := by
  simp [guardData, Nat.not_lt.2 h]

theorem guardData_of_lt {highest : Nat} {k : Result} (h : 0xFFF < highest) :
    guardData highest k = .fault (.outOfBounds .data) := by
  simp [guardData, h, raise]

theorem State.fetch_eq :
    s.fetch = if s.pc.toNat ≤ 0xFFE then some (s.byteAt s.pc.toNat, s.byteAt (s.pc.toNat + 1)) else none := by
  unfold State.fetch
  split <;> split <;> first | rfl | omega

/-- Fetch and decode, all its outcomes (30_encoding.md R81; 60_exceptions.md R204). -/
theorem State.fetchInstr_eq :
    s.fetchInstr =
      if s.pc.toNat ≤ 0xFFE then
        match decodeWord (wordOfBytes (s.byteAt s.pc.toNat) (s.byteAt (s.pc.toNat + 1))) with
        | .ok i => .ok i
        | .error _ => .error (.unknownOpcode (wordOfBytes (s.byteAt s.pc.toNat) (s.byteAt (s.pc.toNat + 1))) s.pc)
      else .error (.outOfBounds .fetch) := by
  unfold State.fetchInstr
  rw [State.fetch_eq]
  split_ifs with h
  · simp only [decode]
    cases decodeWord (wordOfBytes (s.byteAt s.pc.toNat) (s.byteAt (s.pc.toNat + 1))) <;> rfl
  · rfl

/-- What a step can do: run the decoded instruction, or end with one of the two fetch errors. -/
theorem step_cases :
    (0xFFF ≤ s.pc.toNat ∧ step s = .fault (.outOfBounds .fetch)) ∨
    (s.pc.toNat ≤ 0xFFE ∧
      ((∃ i, decodeWord (wordOfBytes (s.byteAt s.pc.toNat) (s.byteAt (s.pc.toNat + 1))) = .ok i ∧ step s = exec i s) ∨
       (∃ e, decodeWord (wordOfBytes (s.byteAt s.pc.toNat) (s.byteAt (s.pc.toNat + 1))) = .error e ∧
        step s = .fault (.unknownOpcode (wordOfBytes (s.byteAt s.pc.toNat) (s.byteAt (s.pc.toNat + 1))) s.pc)))) := by
  unfold step
  rw [State.fetchInstr_eq]
  by_cases h : s.pc.toNat ≤ 0xFFE
  · refine .inr ⟨h, ?_⟩
    rw [if_pos h]
    cases hd : decodeWord (wordOfBytes (s.byteAt s.pc.toNat) (s.byteAt (s.pc.toNat + 1))) with
    | ok i => exact .inl ⟨i, rfl, rfl⟩
    | error e => exact .inr ⟨e, rfl, rfl⟩
  · refine .inl ⟨by omega, ?_⟩
    rw [if_neg h]
    rfl

/-! ## Keys -/

/-- The lowest pressed key is the one answered. -/
theorem firstPressed_eq_some {key : Vector Bool 16} {k : Fin 16} :
    firstPressed key = some k ↔ key[k] = true ∧ ∀ j : Fin 16, j < k → key[j] = false := by
  unfold firstPressed
  rw [List.find?_eq_some_iff_getElem]
  simp only [List.getElem_finRange, List.length_finRange]
  constructor
  · rintro ⟨hk, i, hi, rfl, hj⟩
    refine ⟨hk, fun j hlt => ?_⟩
    have := hj j.val hlt
    simpa using this
  · rintro ⟨hk, hj⟩
    refine ⟨hk, k.val, k.isLt, rfl, fun j hlt => ?_⟩
    have := hj ⟨j, by omega⟩ hlt
    simpa using this

theorem firstPressed_eq_none {key : Vector Bool 16} :
    firstPressed key = none ↔ ∀ k : Fin 16, key[k] = false := by
  simp [firstPressed, List.find?_eq_none]

/-! ## Host operations -/

/-- An operation that ends with an error keeps the state (60_exceptions.md R203). -/
theorem settle_eq (r : Result) :
    settle s r = match r with
      | .next t => (.status .ok, t)
      | .fault f => (.status (.error f), s)
      | .refused f => (.status (.noMeaning f), s) := by
  cases r <;> rfl

end Sys2Proof.Machine
end

