-- ==== Sys2Proof/Laws/Display.lean ====
section
/-! SUPPORT. The blit unit pixel by pixel (spec/45_display.md R171). -/

namespace Sys2Proof.Machine

/-- A toggle flips one pixel of the wrapped grid and no other. -/
theorem Framebuffer.pixel_toggle (fb : Framebuffer) (px py qx qy : Nat) :
    (Framebuffer.toggle fb px py).pixel qx qy
      = (Framebuffer.pixel fb qx qy ^^ (decide (px % 64 = qx % 64) && decide (py % 32 = qy % 32))) := by
  have hx : qx % 64 < 64 := Nat.mod_lt _ (by omega)
  unfold Framebuffer.toggle Framebuffer.pixel
  rw [Vector.getElem_set]
  by_cases hy : py % 32 = qy % 32
  · simp only [hy, if_true, BitVec.getLsbD_xor, BitVec.getLsbD_twoPow, Nat.mod_lt px (by omega : 64 > 0)]
    simp
  · simp [hy]

@[simp] theorem Framebuffer.pixel_clear (px py : Nat) : Framebuffer.pixel Framebuffer.clear px py = false := by
  simp [Framebuffer.clear, Framebuffer.pixel]

/-- One sprite bit: the pixel it lands on is flipped when the bit is 1, no other is touched. -/
theorem blitBit_pixel (c : Bool) (px py qx qy : Nat) (b : Blit) :
    (blitBit c px py b).fb.pixel qx qy
      = (b.fb.pixel qx qy ^^ (c && decide (px % 64 = qx % 64) && decide (py % 32 = qy % 32))) := by
  cases c
  · simp [blitBit]
  · simp [blitBit, Framebuffer.pixel_toggle]

/-- One sprite bit: it collides when it is 1 and lands on a lit pixel. -/
theorem blitBit_collision (c : Bool) (px py : Nat) (b : Blit) :
    (blitBit c px py b).collision = (b.collision || (c && b.fb.pixel px py)) := by
  cases c <;> simp [blitBit]

/-- The bits of a row one after the other: two of them never land on the same pixel, 8 columns of 64 being distinct
(45_display.md R172). -/
theorem blitBits_pixel (c : Nat → Bool) (vx py m : Nat) (hm : m ≤ 8) (b : Blit) (qx qy : Nat) :
    ((List.range m).foldl (fun b bit => blitBit (c bit) (vx + bit) py b) b).fb.pixel qx qy
      = (b.fb.pixel qx qy ^^
          (List.range m).any fun bit => c bit && decide ((vx + bit) % 64 = qx % 64) && decide (py % 32 = qy % 32)) := by
  induction m with
  | zero => simp
  | succ m ih =>
    rw [List.range_succ, List.foldl_append, List.foldl_cons, List.foldl_nil, blitBit_pixel, ih (by omega),
      List.any_append, List.any_cons, List.any_nil, Bool.or_false]
    by_cases hc : (vx + m) % 64 = qx % 64
    · have hno : ((List.range m).any fun bit =>
          c bit && decide ((vx + bit) % 64 = qx % 64) && decide (py % 32 = qy % 32)) = false := by
        rw [List.any_eq_false]
        intro bit hb
        have hne : (vx + bit) % 64 ≠ qx % 64 := by have := List.mem_range.1 hb; omega
        simp [hne]
      rw [hno]
      simp
    · simp [hc]

/-- One sprite row: a pixel flips exactly when a 1 bit of the row lands on it. -/
theorem blitRow_pixel (vx py : Nat) (byte : Byte) (b : Blit) (qx qy : Nat) :
    (blitRow vx py byte b).fb.pixel qx qy
      = (b.fb.pixel qx qy ^^ (List.range 8).any fun bit =>
          byte.getLsbD (7 - bit) && decide ((vx + bit) % 64 = qx % 64) && decide (py % 32 = qy % 32)) :=
  blitBits_pixel (fun bit => byte.getLsbD (7 - bit)) vx py 8 le_rfl b qx qy

/-- The bits of a row one after the other collide exactly when one of them is 1 over a pixel lit before the row. -/
theorem blitBits_collision (c : Nat → Bool) (vx py m : Nat) (hm : m ≤ 8) (b : Blit) :
    ((List.range m).foldl (fun b bit => blitBit (c bit) (vx + bit) py b) b).collision
      = (b.collision || (List.range m).any fun bit => c bit && b.fb.pixel (vx + bit) py) := by
  induction m with
  | zero => simp
  | succ m ih =>
    have hno : ((List.range m).any fun bit =>
        c bit && decide ((vx + bit) % 64 = (vx + m) % 64) && decide (py % 32 = py % 32)) = false := by
      rw [List.any_eq_false]
      intro bit hb
      have hne : (vx + bit) % 64 ≠ (vx + m) % 64 := by have := List.mem_range.1 hb; omega
      simp [hne]
    rw [List.range_succ, List.foldl_append, List.foldl_cons, List.foldl_nil, blitBit_collision, ih (by omega),
      blitBits_pixel c vx py m (by omega), hno, List.any_append, List.any_cons, List.any_nil, Bool.or_false,
      Bool.xor_false, Bool.or_assoc]

/-- One sprite row collides exactly when a 1 bit of it lands on a pixel that was lit before the row. -/
theorem blitRow_collision (vx py : Nat) (byte : Byte) (b : Blit) :
    (blitRow vx py byte b).collision
      = (b.collision || (List.range 8).any fun bit => byte.getLsbD (7 - bit) && b.fb.pixel (vx + bit) py) :=
  blitBits_collision (fun bit => byte.getLsbD (7 - bit)) vx py 8 le_rfl b

@[simp] theorem blitRows_nil (vx py : Nat) (b : Blit) : blitRows vx py [] b = b := rfl

@[simp] theorem blitRows_cons (vx py : Nat) (byte : Byte) (rows : List Byte) (b : Blit) :
    blitRows vx py (byte :: rows) b = blitRows vx (py + 1) rows (blitRow vx py byte b) := rfl

/-! ## DRW's frame: the parts a draw leaves alone -/

variable (s : State) (vx vy : Byte) (rows : List Byte)

@[simp] theorem State.draw_I : (s.draw vx vy rows).I = s.I := rfl
@[simp] theorem State.draw_pc : (s.draw vx vy rows).pc = s.pc + 2 := rfl
@[simp] theorem State.draw_sp : (s.draw vx vy rows).sp = s.sp := rfl
@[simp] theorem State.draw_stack : (s.draw vx vy rows).stack = s.stack := rfl
@[simp] theorem State.draw_DT : (s.draw vx vy rows).DT = s.DT := rfl
@[simp] theorem State.draw_ST : (s.draw vx vy rows).ST = s.ST := rfl
@[simp] theorem State.draw_mem : (s.draw vx vy rows).mem = s.mem := rfl
@[simp] theorem State.draw_key : (s.draw vx vy rows).key = s.key := rfl
@[simp] theorem State.draw_cfg : (s.draw vx vy rows).cfg = s.cfg := rfl
@[simp] theorem State.draw_draws : (s.draw vx vy rows).draws = s.draws := rfl
@[simp] theorem State.draw_fb :
    (s.draw vx vy rows).fb = (blitRows vx.toNat vy.toNat rows ⟨s.fb, false⟩).fb := rfl

theorem State.reg_draw (j : RegIdx) :
    (s.draw vx vy rows).reg j
      = if j = 15 then flagByte (blitRows vx.toNat vy.toNat rows ⟨s.fb, false⟩).collision else s.reg j := by
  rw [State.draw, State.reg_congr (State.advance_V _), State.reg_setVF, State.reg_congr (State.setFb_V _ _),
    State.reg_setVF]
  split <;> rfl

end Sys2Proof.Machine
end

