-- ==== Sys2Proof/Laws/Encoding.lean ====
section
/-! SUPPORT. The fields of a word of each format, and a word from its fields (spec/30_encoding.md R71, R72). -/

namespace Sys2Proof

@[simp] theorem nibble_toFin (x : Fin 16) : (nibble x).toFin = x := rfl

/-- All of a bit vector, cut out of it, is the bit vector. -/
theorem extractLsb'_all {n : Nat} (b : BitVec n) : b.extractLsb' 0 n = b := by
  apply BitVec.eq_of_getLsbD_eq
  intro k hk
  simp [hk]

/-! ## Fields of format A -/

@[simp] theorem fieldOp_wordA (op : BitVec 4) (nnn : Addr12) : fieldOp (wordA op nnn) = op := by
  rw [fieldOp, wordA, BitVec.extractLsb'_append_eq_of_le (by omega), extractLsb'_all]

@[simp] theorem fieldNnn_wordA (op : BitVec 4) (nnn : Addr12) : fieldNnn (wordA op nnn) = nnn := by
  rw [fieldNnn, wordA, BitVec.extractLsb'_append_eq_of_add_le (by omega), extractLsb'_all]

/-! ## Fields of formats XK and XS -/

variable (op : BitVec 4) (x y n : Fin 16) (kk : Byte)

@[simp] theorem fieldOp_wordXK : fieldOp (wordXK op x kk) = op := by
  rw [fieldOp, wordXK, BitVec.extractLsb'_append_eq_of_le (by omega), BitVec.extractLsb'_append_eq_of_le (by omega),
    extractLsb'_all]

@[simp] theorem fieldX_wordXK : fieldX (wordXK op x kk) = x := by
  rw [fieldX, wordXK, BitVec.extractLsb'_append_eq_of_le (by omega),
    BitVec.extractLsb'_append_eq_of_add_le (by omega), extractLsb'_all, nibble_toFin]

@[simp] theorem fieldKk_wordXK : fieldKk (wordXK op x kk) = kk := by
  rw [fieldKk, wordXK, BitVec.extractLsb'_append_eq_of_add_le (by omega), extractLsb'_all]

/-! ## Fields of formats XY and XYN -/

@[simp] theorem fieldOp_wordXY : fieldOp (wordXY op x y n) = op := by
  rw [fieldOp, wordXY, BitVec.extractLsb'_append_eq_of_le (by omega), BitVec.extractLsb'_append_eq_of_le (by omega),
    extractLsb'_all]

@[simp] theorem fieldX_wordXY : fieldX (wordXY op x y n) = x := by
  rw [fieldX, wordXY, BitVec.extractLsb'_append_eq_of_le (by omega),
    BitVec.extractLsb'_append_eq_of_add_le (by omega), extractLsb'_all, nibble_toFin]

@[simp] theorem fieldY_wordXY : fieldY (wordXY op x y n) = y := by
  rw [fieldY, wordXY, BitVec.extractLsb'_append_eq_of_add_le (by omega),
    BitVec.extractLsb'_append_eq_of_le (by omega), extractLsb'_all, nibble_toFin]

@[simp] theorem fieldN_wordXY : fieldN (wordXY op x y n) = n := by
  rw [fieldN, wordXY, BitVec.extractLsb'_append_eq_of_add_le (by omega),
    BitVec.extractLsb'_append_eq_of_add_le (by omega), extractLsb'_all, nibble_toFin]

/-! ## A word from its fields -/

variable (w : Word)

theorem nibble_fieldX : nibble (fieldX w) = w.extractLsb' 8 4 := rfl

theorem nibble_fieldY : nibble (fieldY w) = w.extractLsb' 4 4 := rfl

theorem nibble_fieldN : nibble (fieldN w) = w.extractLsb' 0 4 := rfl

theorem wordA_fields : wordA (fieldOp w) (fieldNnn w) = w := by
  rw [wordA, fieldOp, fieldNnn, BitVec.extractLsb'_append_extractLsb'_eq_extractLsb' (by omega)]
  exact extractLsb'_all w

theorem wordXK_fields : wordXK (fieldOp w) (fieldX w) (fieldKk w) = w := by
  rw [wordXK, fieldOp, nibble_fieldX, fieldKk, BitVec.extractLsb'_append_extractLsb'_eq_extractLsb' (by omega),
    BitVec.extractLsb'_append_extractLsb'_eq_extractLsb' (by omega)]
  exact extractLsb'_all w

theorem wordXY_fields : wordXY (fieldOp w) (fieldX w) (fieldY w) (fieldN w) = w := by
  rw [wordXY, fieldOp, nibble_fieldX, nibble_fieldY, nibble_fieldN,
    BitVec.extractLsb'_append_extractLsb'_eq_extractLsb' (by omega),
    BitVec.extractLsb'_append_extractLsb'_eq_extractLsb' (by omega),
    BitVec.extractLsb'_append_extractLsb'_eq_extractLsb' (by omega)]
  exact extractLsb'_all w

/-! ## Bytes and words in memory order -/

/-- Two bytes of a word, high byte first, make the word again (20_memory.md R52). -/
theorem wordOfBytes_bytes : wordOfBytes (w.extractLsb' 8 8) (w.extractLsb' 0 8) = w := by
  rw [wordOfBytes, BitVec.extractLsb'_append_extractLsb'_eq_extractLsb' (by omega)]
  exact extractLsb'_all w

/-- The spec's `(hi << 8) | lo` (20_memory.md R52). -/
theorem wordOfBytes_eq_shift_or (hi lo : Byte) : wordOfBytes hi lo = (zext16 hi <<< 8) ||| zext16 lo := by
  apply BitVec.eq_of_getLsbD_eq
  intro k hk
  simp only [wordOfBytes, zext16, BitVec.getLsbD_append, BitVec.getLsbD_or, BitVec.getLsbD_shiftLeft,
    BitVec.getLsbD_setWidth]
  by_cases h : k < 8
  · simp [h, hk]
  · have : lo.getLsbD k = false := BitVec.getLsbD_of_ge lo k (by omega)
    simp [h, hk, this]; omega

end Sys2Proof
end

