-- ==== Sys2Proof/Laws/Frames.lean ====
section
/-! SUPPORT. What each named operation leaves unchanged, and how frames compose. -/

namespace Sys2Proof.Machine

theorem UnchangedBut.refl (fs : List Field) (s : State) : UnchangedBut fs s s := by
  intro f _
  cases f <;> simp [Same]

theorem Same.trans {f : Field} {s t u : State} (h : Same f s t) (k : Same f t u) : Same f s u := by
  cases f <;> simp only [Same] at h k ⊢
  case V => intro j; rw [k, h]
  case stack => intro j; rw [k, h]
  case mem => intro a; rw [k, h]
  case fb => intro x y; rw [k, h]
  case key => intro j; rw [k, h]
  all_goals rw [k, h]

theorem UnchangedBut.mono {fs gs : List Field} {s t : State} (h : UnchangedBut fs s t) (hs : ∀ f ∈ fs, f ∈ gs) :
    UnchangedBut gs s t := fun f hf => h f fun hm => hf (hs f hm)

theorem UnchangedBut.trans {fs : List Field} {s t u : State} (h : UnchangedBut fs s t) (k : UnchangedBut fs t u) :
    UnchangedBut fs s u := fun f hf => (h f hf).trans (k f hf)

/-- Two frames one after the other leave alone what both leave alone. -/
theorem UnchangedBut.append {fs gs : List Field} {s t u : State} (h : UnchangedBut fs s t) (k : UnchangedBut gs t u) :
    UnchangedBut (fs ++ gs) s u :=
  (h.mono fun _ hf => List.mem_append_left _ hf).trans (k.mono fun _ hf => List.mem_append_right _ hf)

variable (s : State)

theorem State.setReg_frame (x : RegIdx) (v : Byte) : UnchangedBut [.V] s (s.setReg x v) := by
  intro f hf
  cases f <;> simp_all [Same, State.byteAt]

theorem State.setI_frame (v : Word) : UnchangedBut [.I] s (s.setI v) := by
  intro f hf
  cases f <;> simp_all [Same, State.byteAt, State.reg]

theorem State.setDT_frame (v : Byte) : UnchangedBut [.DT] s (s.setDT v) := by
  intro f hf
  cases f <;> simp_all [Same, State.byteAt, State.reg]

theorem State.setST_frame (v : Byte) : UnchangedBut [.ST] s (s.setST v) := by
  intro f hf
  cases f <;> simp_all [Same, State.byteAt, State.reg]

theorem State.setFb_frame (fb : Framebuffer) : UnchangedBut [.fb] s (s.setFb fb) := by
  intro f hf
  cases f <;> simp_all [Same, State.byteAt, State.reg]

theorem State.setKeyFlag_frame (k : Fin 16) (b : Bool) : UnchangedBut [.key] s (s.setKeyFlag k b) := by
  intro f hf
  cases f <;> simp_all [Same, State.byteAt, State.reg]

theorem State.setPc_frame (p : Word) : UnchangedBut [.pc] s (s.setPc p) := by
  intro f hf
  cases f <;> simp_all [Same, State.byteAt, State.reg]

theorem State.advance_frame : UnchangedBut [.pc] s s.advance := s.setPc_frame _

theorem State.skipIf_frame (c : Bool) : UnchangedBut [.pc] s (s.skipIf c) := s.setPc_frame _

theorem State.loadRegs_frame (bytes : List Byte) : UnchangedBut [.V] s (s.loadRegs bytes) := by
  intro f hf
  cases f <;> simp_all [Same, State.byteAt]

theorem State.writeBytes_frame (a : Nat) (vs : List Byte) : UnchangedBut [.mem] s (s.writeBytes a vs) := by
  intro f hf
  cases f <;> simp_all [Same, State.reg]

theorem State.sample_frame : UnchangedBut [.draws] s s.sample.2 := by
  intro f hf
  cases f <;> simp_all [Same, State.byteAt, State.reg]

theorem State.push?_frame {v : Word} {t : State} (h : s.push? v = some t) : UnchangedBut [.sp, .stack] s t := by
  obtain ⟨_, rfl⟩ := s.push?_eq_some.1 h
  intro f hf
  cases f <;> simp_all [Same, State.byteAt, State.reg]

theorem State.pop?_frame {v : Word} {t : State} (h : s.pop? = some (v, t)) : UnchangedBut [.sp] s t := by
  obtain ⟨_, e⟩ := s.pop?_eq_some.1 h
  obtain ⟨-, rfl⟩ := Prod.mk.inj e
  intro f hf
  cases f <;> simp_all [Same, State.byteAt, State.reg]

theorem State.writeWithFlag_frame (x : RegIdx) (r : Byte × Bool) : UnchangedBut [.V, .pc] s (s.writeWithFlag x r) :=
  (((s.setReg_frame x r.1).append (State.setReg_frame _ 15 _)).append (State.advance_frame _)).mono (by simp)

theorem State.draw_frame (vx vy : Byte) (rows : List Byte) : UnchangedBut [.V, .fb, .pc] s (s.draw vx vy rows) := by
  intro f hf
  cases f <;> simp_all [Same, State.byteAt]

end Sys2Proof.Machine
end

