-- ==== Sys2Proof/Laws/PerInstr.lean ====
section
/-! SUPPORT. Statements about every instruction as syntax, one lemma a constructor. -/

namespace Sys2Proof.Laws

/-- An encoded instruction's word has the fixed bits of its own row of the opcode map (spec/30_encoding.md R75). -/
def RowBits.Statement (i : Instr) : Prop := (opcodeMap[i.rowNumber]?).map (fun r => r.fits (encode i)) = some true

/-! The masks of 30_encoding.md R72 on the words of each format. -/

/-- Format A: the mask `0xF000` reads `op`. -/
theorem wordA_mask (op : BitVec 4) (nnn : Addr12) : wordA op nnn &&& (0xF#4 ++ 0x000#12) = op ++ 0x000#12 := by
  rw [wordA, BitVec.and_append, BitVec.and_zero, show (0xF#4 : BitVec 4) = BitVec.allOnes 4 from rfl,
    BitVec.and_allOnes]

/-- Format XK: the mask `0xF000` reads `op`. -/
theorem wordXK_mask (op : BitVec 4) (x : RegIdx) (kk : Byte) :
    wordXK op x kk &&& ((0xF#4 ++ 0x0#4) ++ 0x00#8) = (op ++ 0x0#4) ++ 0x00#8 := by
  rw [wordXK, BitVec.and_append, BitVec.and_append, BitVec.and_zero, BitVec.and_zero,
    show (0xF#4 : BitVec 4) = BitVec.allOnes 4 from rfl, BitVec.and_allOnes]

/-- Format XS: the mask `0xF0FF` reads `op` and `kk`. -/
theorem wordXS_mask (op : BitVec 4) (x : RegIdx) (kk : Byte) :
    wordXK op x kk &&& ((0xF#4 ++ 0x0#4) ++ 0xFF#8) = (op ++ 0x0#4) ++ kk := by
  rw [wordXK, BitVec.and_append, BitVec.and_append, BitVec.and_zero,
    show (0xF#4 : BitVec 4) = BitVec.allOnes 4 from rfl, show (0xFF#8 : BitVec 8) = BitVec.allOnes 8 from rfl,
    BitVec.and_allOnes, BitVec.and_allOnes]

/-- Format XY: the mask `0xF00F` reads `op` and `n`. -/
theorem wordXY_mask (op : BitVec 4) (x y n : Fin 16) :
    wordXY op x y n &&& ((0xF#4 ++ 0x0#4) ++ (0x0#4 ++ 0xF#4)) = (op ++ 0x0#4) ++ (0x0#4 ++ nibble n) := by
  rw [wordXY, BitVec.and_append, BitVec.and_append, BitVec.and_append, BitVec.and_zero, BitVec.and_zero,
    show (0xF#4 : BitVec 4) = BitVec.allOnes 4 from rfl, BitVec.and_allOnes, BitVec.and_allOnes]

/-- Format XYN: the mask `0xF000` reads `op`. -/
theorem wordXYN_mask (op : BitVec 4) (x y n : Fin 16) :
    wordXY op x y n &&& ((0xF#4 ++ 0x0#4) ++ (0x0#4 ++ 0x0#4)) = (op ++ 0x0#4) ++ (0x0#4 ++ 0x0#4) := by
  rw [wordXY, BitVec.and_append, BitVec.and_append, BitVec.and_append, BitVec.and_zero, BitVec.and_zero,
    BitVec.and_zero, show (0xF#4 : BitVec 4) = BitVec.allOnes 4 from rfl, BitVec.and_allOnes]

/-- A row is fitted when its mask reads its pattern. -/
theorem rowBits_of_mask {i : Instr} {r : OpcodeRow} (hr : opcodeMap[i.rowNumber]? = some r)
    (h : encode i &&& r.mask = r.pattern) : RowBits.Statement i := by
  simp [RowBits.Statement, hr, OpcodeRow.fits, h]

theorem RowBits.halt : RowBits.Statement .halt :=
  rowBits_of_mask rfl rfl

theorem RowBits.cls : RowBits.Statement .cls :=
  rowBits_of_mask rfl rfl

theorem RowBits.ret : RowBits.Statement .ret :=
  rowBits_of_mask rfl rfl

theorem RowBits.sys (nnn : Addr12) : RowBits.Statement (.sys nnn) :=
  rowBits_of_mask rfl (wordA_mask 0x0 nnn)

theorem RowBits.jp (nnn : Addr12) : RowBits.Statement (.jp nnn) :=
  rowBits_of_mask rfl (wordA_mask 0x1 nnn)

theorem RowBits.call (nnn : Addr12) : RowBits.Statement (.call nnn) :=
  rowBits_of_mask rfl (wordA_mask 0x2 nnn)

theorem RowBits.seImm (x : RegIdx) (kk : Byte) : RowBits.Statement (.seImm x kk) :=
  rowBits_of_mask rfl (wordXK_mask 0x3 x kk)

theorem RowBits.sneImm (x : RegIdx) (kk : Byte) : RowBits.Statement (.sneImm x kk) :=
  rowBits_of_mask rfl (wordXK_mask 0x4 x kk)

theorem RowBits.seReg (x y : RegIdx) : RowBits.Statement (.seReg x y) :=
  rowBits_of_mask rfl (wordXY_mask 0x5 x y 0x0)

theorem RowBits.ldImm (x : RegIdx) (kk : Byte) : RowBits.Statement (.ldImm x kk) :=
  rowBits_of_mask rfl (wordXK_mask 0x6 x kk)

theorem RowBits.addImm (x : RegIdx) (kk : Byte) : RowBits.Statement (.addImm x kk) :=
  rowBits_of_mask rfl (wordXK_mask 0x7 x kk)

theorem RowBits.ldReg (x y : RegIdx) : RowBits.Statement (.ldReg x y) :=
  rowBits_of_mask rfl (wordXY_mask 0x8 x y 0x0)

theorem RowBits.or (x y : RegIdx) : RowBits.Statement (.or x y) :=
  rowBits_of_mask rfl (wordXY_mask 0x8 x y 0x1)

theorem RowBits.and (x y : RegIdx) : RowBits.Statement (.and x y) :=
  rowBits_of_mask rfl (wordXY_mask 0x8 x y 0x2)

theorem RowBits.xor (x y : RegIdx) : RowBits.Statement (.xor x y) :=
  rowBits_of_mask rfl (wordXY_mask 0x8 x y 0x3)

theorem RowBits.addReg (x y : RegIdx) : RowBits.Statement (.addReg x y) :=
  rowBits_of_mask rfl (wordXY_mask 0x8 x y 0x4)

theorem RowBits.sub (x y : RegIdx) : RowBits.Statement (.sub x y) :=
  rowBits_of_mask rfl (wordXY_mask 0x8 x y 0x5)

theorem RowBits.shr (x y : RegIdx) : RowBits.Statement (.shr x y) :=
  rowBits_of_mask rfl (wordXY_mask 0x8 x y 0x6)

theorem RowBits.subn (x y : RegIdx) : RowBits.Statement (.subn x y) :=
  rowBits_of_mask rfl (wordXY_mask 0x8 x y 0x7)

theorem RowBits.shl (x y : RegIdx) : RowBits.Statement (.shl x y) :=
  rowBits_of_mask rfl (wordXY_mask 0x8 x y 0xE)

theorem RowBits.sneReg (x y : RegIdx) : RowBits.Statement (.sneReg x y) :=
  rowBits_of_mask rfl (wordXY_mask 0x9 x y 0x0)

theorem RowBits.ldI (nnn : Addr12) : RowBits.Statement (.ldI nnn) :=
  rowBits_of_mask rfl (wordA_mask 0xA nnn)

theorem RowBits.jpV0 (nnn : Addr12) : RowBits.Statement (.jpV0 nnn) :=
  rowBits_of_mask rfl (wordA_mask 0xB nnn)

theorem RowBits.rnd (x : RegIdx) (kk : Byte) : RowBits.Statement (.rnd x kk) :=
  rowBits_of_mask rfl (wordXK_mask 0xC x kk)

theorem RowBits.drw (x y : RegIdx) (n : Fin 16) : RowBits.Statement (.drw x y n) :=
  rowBits_of_mask rfl (wordXYN_mask 0xD x y n)

theorem RowBits.skp (x : RegIdx) : RowBits.Statement (.skp x) :=
  rowBits_of_mask rfl (wordXS_mask 0xE x 0x9E)

theorem RowBits.sknp (x : RegIdx) : RowBits.Statement (.sknp x) :=
  rowBits_of_mask rfl (wordXS_mask 0xE x 0xA1)

theorem RowBits.ldVxDt (x : RegIdx) : RowBits.Statement (.ldVxDt x) :=
  rowBits_of_mask rfl (wordXS_mask 0xF x 0x07)

theorem RowBits.ldVxK (x : RegIdx) : RowBits.Statement (.ldVxK x) :=
  rowBits_of_mask rfl (wordXS_mask 0xF x 0x0A)

theorem RowBits.ldDtVx (x : RegIdx) : RowBits.Statement (.ldDtVx x) :=
  rowBits_of_mask rfl (wordXS_mask 0xF x 0x15)

theorem RowBits.ldStVx (x : RegIdx) : RowBits.Statement (.ldStVx x) :=
  rowBits_of_mask rfl (wordXS_mask 0xF x 0x18)

theorem RowBits.addI (x : RegIdx) : RowBits.Statement (.addI x) :=
  rowBits_of_mask rfl (wordXS_mask 0xF x 0x1E)

theorem RowBits.ldF (x : RegIdx) : RowBits.Statement (.ldF x) :=
  rowBits_of_mask rfl (wordXS_mask 0xF x 0x29)

theorem RowBits.ldB (x : RegIdx) : RowBits.Statement (.ldB x) :=
  rowBits_of_mask rfl (wordXS_mask 0xF x 0x33)

theorem RowBits.ldMemVx (x : RegIdx) : RowBits.Statement (.ldMemVx x) :=
  rowBits_of_mask rfl (wordXS_mask 0xF x 0x55)

theorem RowBits.ldVxMem (x : RegIdx) : RowBits.Statement (.ldVxMem x) :=
  rowBits_of_mask rfl (wordXS_mask 0xF x 0x65)

end Sys2Proof.Laws
end

