-- ==== Sys2Proof/Tests/Slice0.lean ====
section
/-! SUPPORT. The model's own tests. Expected values are those of spec/95_test_vectors.md or of the examples in the
instruction rules; each test is one operation on a small state. Then one witness for each statement with hypotheses. -/

namespace Sys2Proof.Tests

open Sys2Proof Sys2Proof.Machine

/-! ## WellFormed: the one check, at each of its three words -/

theorem test_sys_000_ill_formed : (Instr.sys 0x000).wellFormed = false := by decide
theorem test_sys_0E0_ill_formed : (Instr.sys 0x0E0).wellFormed = false := by decide
theorem test_sys_0EE_ill_formed : (Instr.sys 0x0EE).wellFormed = false := by decide
theorem test_sys_0E1_well_formed : (Instr.sys 0x0E1).wellFormed = true := by decide

/-! ## Decode: a word for every constructor, bit by bit from 30_encoding.md R72 and R75 -/

theorem test_decode_control :
    decodeWord 0b0000000000000000#16 = .ok .halt ∧ decodeWord 0b0000000011101110#16 = .ok .ret ∧
    decodeWord 0b0000000011100001#16 = .ok (.sys 0x0E1) ∧ decodeWord 0b0001101010111100#16 = .ok (.jp 0xABC) ∧
    decodeWord 0b0010111111111111#16 = .ok (.call 0xFFF) ∧ decodeWord 0b1011001100000000#16 = .ok (.jpV0 0x300) := by
  decide

theorem test_decode_skip :
    decodeWord 0b0011101000000101#16 = .ok (.seImm 0xA 0x05) ∧
    decodeWord 0b0100101000000101#16 = .ok (.sneImm 0xA 0x05) ∧
    decodeWord 0b0101000100100000#16 = .ok (.seReg 1 2) ∧ decodeWord 0b1001101010110000#16 = .ok (.sneReg 0xA 0xB) := by
  decide

theorem test_decode_immediate :
    decodeWord 0b0110111100110011#16 = .ok (.ldImm 0xF 0x33) ∧
    decodeWord 0b0111000011111111#16 = .ok (.addImm 0 0xFF) ∧
    decodeWord 0b1100000100001111#16 = .ok (.rnd 1 0x0F) := by decide

theorem test_decode_alu :
    decodeWord 0b1000101010110000#16 = .ok (.ldReg 0xA 0xB) ∧ decodeWord 0b1000101010110001#16 = .ok (.or 0xA 0xB) ∧
    decodeWord 0b1000101010110010#16 = .ok (.and 0xA 0xB) ∧ decodeWord 0b1000101010110011#16 = .ok (.xor 0xA 0xB) ∧
    decodeWord 0b1000101010110100#16 = .ok (.addReg 0xA 0xB) ∧ decodeWord 0b1000101010110101#16 = .ok (.sub 0xA 0xB) ∧
    decodeWord 0b1000101010110110#16 = .ok (.shr 0xA 0xB) ∧ decodeWord 0b1000101010110111#16 = .ok (.subn 0xA 0xB) ∧
    decodeWord 0b1000101010111110#16 = .ok (.shl 0xA 0xB) := by decide

theorem test_decode_index :
    decodeWord 0b1010001100000000#16 = .ok (.ldI 0x300) ∧ decodeWord 0b1111001000011110#16 = .ok (.addI 2) ∧
    decodeWord 0b1111000000101001#16 = .ok (.ldF 0) ∧ decodeWord 0b1111000000110011#16 = .ok (.ldB 0) ∧
    decodeWord 0b1111001001010101#16 = .ok (.ldMemVx 2) ∧ decodeWord 0b1111001001100101#16 = .ok (.ldVxMem 2) := by
  decide

theorem test_decode_display :
    decodeWord 0b0000000011100000#16 = .ok .cls ∧ decodeWord 0b1101000100100101#16 = .ok (.drw 1 2 5) := by decide

theorem test_decode_keypad_timers :
    decodeWord 0b1110001110011110#16 = .ok (.skp 3) ∧ decodeWord 0b1110001110100001#16 = .ok (.sknp 3) ∧
    decodeWord 0b1111001000000111#16 = .ok (.ldVxDt 2) ∧ decodeWord 0b1111000100001010#16 = .ok (.ldVxK 1) ∧
    decodeWord 0b1111001000010101#16 = .ok (.ldDtVx 2) ∧ decodeWord 0b1111001000011000#16 = .ok (.ldStVx 2) := by
  decide

theorem test_decode_unknown :
    [0x5121#16, 0x8AB8#16, 0x8ABF#16, 0x9AB1#16, 0xE19F#16, 0xF075#16, 0xF000#16, 0xFFFF#16].all
      (fun w => decide (decodeWord w = .error (.unknown w))) = true := by decide

theorem test_decode_truncated : decode [0x12#8] = .error .truncated := by decide

theorem test_table_word : decodeTableWord 16 0xD125 = some (.drw 1 2 5) := by decide

/-! ## Instructions -/

/-- The step that runs the word `w` at `pc`, and what its next state satisfies. -/
def after (s : State) (w : Nat) (p : State → Bool) : Bool :=
  match step (s.withFetchWord 16 w) with
  | .next t => p t
  | .fault _ => false
  | .refused _ => false

/-- The step that runs the word `w` at `pc` ends with this error. -/
def faultsWith (s : State) (w : Nat) (r : Fault) : Bool :=
  match step (s.withFetchWord 16 w) with
  | .next _ => false
  | .fault q => q == r
  | .refused _ => false

/-- The reset state with two registers set. -/
def regs (x : RegIdx) (a : Byte) (y : RegIdx) (b : Byte) : State := (State.reset.setReg x a).setReg y b

/-- The reset state with `sp` entries in use, `stack[0] = v`. -/
def stacked (sp : Fin 17) (v : Word) : State := { State.reset with sp := sp, stack := State.reset.stack.set 0 v }

theorem test_halt : after { State.reset with pc := 0x204 } 0x0000 (fun t => t.pc == 0x204) = true := by decide
theorem test_ret : after (stacked 1 0x204) 0x00EE (fun t => t.sp == 0 && t.pc == 0x204 && t.stack[0] == 0x204) = true := by
  decide
theorem test_ret_underflow : faultsWith State.reset 0x00EE (.outOfBounds .stackUnderflow) = true := by decide
theorem test_sys : after State.reset 0x0300 (fun t => t.pc == 0x300) = true := by decide
theorem test_jp_odd : after State.reset 0x1203 (fun t => t.pc == 0x203) = true := by decide
theorem test_call_last_entry : after { State.reset with pc := 0x300, sp := 15 } 0x2400
    (fun t => t.stack[15] == 0x302 && t.sp == 16 && t.pc == 0x400) = true := by decide
theorem test_call_overflow : faultsWith { State.reset with sp := 16 } 0x2400 (.outOfBounds .stackOverflow) = true := by
  decide
theorem test_jp_v0_past_the_space : after (regs 0 0xFF 3 0x77) 0xBFFF (fun t => t.pc == 0x10FE) = true := by decide

theorem test_se_imm_taken : after (regs 0xA 5 0 0) 0x3A05 (fun t => t.pc == 0x204) = true := by decide
theorem test_sne_imm_not_taken : after (regs 0xA 5 0 0) 0x4A05 (fun t => t.pc == 0x202) = true := by decide
theorem test_se_reg_taken : after (regs 1 0x7F 2 0x7F) 0x5120 (fun t => t.pc == 0x204) = true := by decide
theorem test_sne_reg_taken : after (regs 1 1 2 2) 0x9120 (fun t => t.pc == 0x204) = true := by decide

theorem test_ld_imm_vf : after State.reset 0x6F33 (fun t => t.reg 15 == 0x33 && t.pc == 0x202) = true := by decide
theorem test_add_imm_wraps_without_flag : after (regs 0 0xFF 1 0) 0x7002
    (fun t => t.reg 0 == 0x01 && t.reg 15 == 0) = true := by decide
theorem test_rnd_counts_a_sample : after State.reset 0xC100 (fun t => t.draws == 1 && t.pc == 0x202) = true := by decide

theorem test_ld_reg_vf : after (regs 1 0x99 2 0) 0x8F10 (fun t => t.reg 15 == 0x99) = true := by decide
theorem test_or : after (regs 0 0xF0 1 0x0F) 0x8011 (fun t => t.reg 0 == 0xFF && t.reg 1 == 0x0F) = true := by decide
theorem test_and : after (regs 0 0xF0 1 0x3C) 0x8012 (fun t => t.reg 0 == 0x30 && t.reg 15 == 0) = true := by decide
theorem test_xor : after (regs 0 0xFF 1 0x0F) 0x8013 (fun t => t.reg 0 == 0xF0) = true := by decide
theorem test_add_reg : after (regs 0 0xC8 1 0x64) 0x8014 (fun t => t.reg 0 == 0x2C && t.reg 15 == 1) = true := by decide
theorem test_add_reg_flag_wins : after (regs 15 0xF0 1 0x20) 0x8F14 (fun t => t.reg 15 == 1) = true := by decide
theorem test_sub : after (regs 0 0x10 1 0x20) 0x8015 (fun t => t.reg 0 == 0xF0 && t.reg 15 == 0) = true := by decide
theorem test_sub_equal_is_not_borrow : after (regs 15 0x07 1 0x07) 0x8F15 (fun t => t.reg 15 == 1) = true := by decide
theorem test_shr : after (regs 0 0x05 1 0xFF) 0x8016 (fun t => t.reg 0 == 0x02 && t.reg 15 == 1) = true := by decide
theorem test_shr_flag_wins : after (regs 15 0x02 1 0) 0x8F06 (fun t => t.reg 15 == 0) = true := by decide
theorem test_subn : after (regs 0 0x05 1 0x03) 0x8017 (fun t => t.reg 0 == 0xFE && t.reg 15 == 0) = true := by decide
theorem test_shl : after (regs 0 0x81 1 0) 0x801E (fun t => t.reg 0 == 0x02 && t.reg 15 == 1) = true := by decide
theorem test_shl_flag_wins : after (regs 15 0x01 1 0) 0x8F0E (fun t => t.reg 15 == 0) = true := by decide

theorem test_ld_i : after { State.reset with I := 0xFFFF } 0xAFFF (fun t => t.I == 0x0FFF) = true := by decide
theorem test_add_i_wraps : after { regs 2 0x02 0 0 with I := 0xFFFF } 0xF21E
    (fun t => t.I == 0x0001 && t.reg 15 == 0) = true := by decide
theorem test_ld_f_formula : after (regs 0 0xFF 1 0) 0xF029 (fun t => t.I == 0x04FB) = true := by decide
theorem test_ld_f_other_reading :
    after { regs 0 0x0A 1 0 with cfg := { defaultConfig with fx29Base := 0x050 } } 0xF029 (fun t => t.I == 0x0082) = true := by
  decide
theorem test_ld_b : after { regs 0 255 1 0 with I := 0xFFD } 0xF033
    (fun t => t.byteAt 0xFFD == 2 && t.byteAt 0xFFE == 5 && t.byteAt 0xFFF == 5) = true := by decide
theorem test_ld_b_past_the_space : faultsWith { State.reset with I := 0xFFE } 0xF033 (.outOfBounds .data) = true := by
  decide
theorem test_ld_mem_vx : after { regs 0 1 1 2 with I := 0x400 } 0xF155
    (fun t => t.byteAt 0x400 == 1 && t.byteAt 0x401 == 2 && t.byteAt 0x402 == 0 && t.I == 0x400) = true := by decide
theorem test_ld_mem_vx_past_the_space : faultsWith { State.reset with I := 0xFF1 } 0xFF55 (.outOfBounds .data) = true := by
  decide
theorem test_ld_vx_mem_font : after { State.reset with I := 0x050 } 0xF465
    (fun t => t.V.toList.take 6 == [0xF0, 0x90, 0x90, 0x90, 0xF0, 0]) = true := by decide
theorem test_ld_vx_mem_no_wrap : faultsWith { State.reset with I := 0xFFFF } 0xF165 (.outOfBounds .data) = true := by
  decide

theorem test_cls : after { State.reset with fb := Framebuffer.toggle State.reset.fb 63 31 } 0x00E0
    (fun t => t.fb.pixel 63 31 == false && t.pc == 0x202) = true := by decide
/-- The vector with `V0 = 62`, `V1 = 31` and rows `C0 81`: `fb[2046]`, `fb[2047]`, `fb[62]`, `fb[5]`, on both axes
wrapped. -/
theorem test_drw_wraps : after ({ regs 0 62 1 31 with I := 0x300 }.writeBytes 0x300 [0xC0, 0x81]) 0xD012
    (fun t => t.fb.pixel 62 31 && t.fb.pixel 63 31 && t.fb.pixel 62 0 && t.fb.pixel 5 0 && !t.fb.pixel 0 31 &&
      t.reg 15 == 0) = true := by decide +kernel
/-- The vector with `x = y = 15`: coordinates from the old VF. -/
theorem test_drw_old_vf : after ({ regs 15 3 0 0 with I := 0x300 }.writeBytes 0x300 [0x80]) 0xDFF1
    (fun t => t.fb.pixel 3 3 && t.reg 15 == 0) = true := by decide +kernel

theorem test_skp : after ((regs 3 0x0A 0 0).setKeyFlag 10 true) 0xE39E (fun t => t.pc == 0x204) = true := by decide
theorem test_skp_key_index : faultsWith (regs 3 0x10 0 0) 0xE39E (.outOfBounds .keyIndex) = true := by decide
theorem test_sknp : after ((regs 3 0x0A 0 0).setKeyFlag 10 true) 0xE3A1 (fun t => t.pc == 0x202) = true := by decide
theorem test_ld_vx_k_stalls : after State.reset 0xF00A (fun t => t.pc == 0x200 && t.reg 0 == 0) = true := by decide
theorem test_ld_vx_k_lowest : after ((State.reset.setKeyFlag 5 true).setKeyFlag 15 true) 0xF00A
    (fun t => t.pc == 0x202 && t.reg 0 == 5) = true := by decide
theorem test_ld_vx_dt : after { State.reset with DT := 0x3C } 0xF207 (fun t => t.reg 2 == 0x3C && t.DT == 0x3C) = true := by
  decide
theorem test_ld_dt_vx : after (regs 2 0x3C 0 0) 0xF215 (fun t => t.DT == 0x3C && t.ST == 0) = true := by decide
theorem test_ld_st_vx : after (regs 2 0x02 0 0) 0xF218 (fun t => t.ST == 2 && soundActive t) = true := by decide

/-! ## The cycle and the host operations -/

theorem test_unknown : faultsWith State.reset 0x5121 (.unknownOpcode 0x5121 0x0200) = true := by decide
theorem test_fetch_bound : step { State.reset with pc := 0xFFF } = .fault (.outOfBounds .fetch) := rfl
theorem test_tick : (tickTimers { State.reset with DT := 0, ST := 5 }).DT = 0 ∧
    (tickTimers { State.reset with DT := 0, ST := 5 }).ST = 4 := by decide
theorem test_load_keeps_the_tail :
    ((operate (.loadProgram [0x11]) (operate (.loadProgram [0xAA, 0xBB]) State.reset).2).2.readBytes 0x200 2)
      = [0x11, 0xBB] := by decide
theorem test_reset_keeps_samples : (operate .reset { State.reset with draws := 7, DT := 3 }).2.draws = 7 ∧
    (operate .reset { State.reset with draws := 7, DT := 3 }).2.DT = 0 := by decide
theorem test_codes : Status.code (.error (.outOfBounds .image)) = some 2 ∧ Cause.code .image = 5 := by decide

/-! ## Witnesses: a concrete state and operands that meet the hypotheses of each statement, clause by clause, at a
boundary where there is one -/

theorem witness_DecodeOfEncode : (Instr.sys 0x0EF).wellFormed = true := by decide

theorem witness_EncodeOfDecode : decodeWord 0x8ABE#16 = .ok (.shl 0xA 0xB) := by decide

theorem witness_DecoderAgreesWithOpcodeMap :
    decodeWord 0xF065#16 = .ok (.ldVxMem 0) ∧ OpcodeRow.fits ⟨"LD_VX_MEM", 0xF065, 0xF0FF⟩ 0xF065#16 = true := by decide

theorem witness_RowsOverlapOnlyInSys :
    2 < 3 ∧ opcodeMap[2]? = some ⟨"RET", 0x00EE, 0xFFFF⟩ ∧ opcodeMap[3]? = some ⟨"SYS", 0x0000, 0xF000⟩ ∧
    OpcodeRow.fits ⟨"RET", 0x00EE, 0xFFFF⟩ 0x00EE#16 = true ∧ OpcodeRow.fits ⟨"SYS", 0x0000, 0xF000⟩ 0x00EE#16 = true := by
  decide

/-- The last place an instruction can stand, `pc = 0xFFE`, with `60 01` there. -/
def lastPlace : State := { State.reset with pc := 0xFFE }.writeBytes 0xFFE [0x60, 0x01]

theorem witness_StepRunsDecodedInstruction :
    lastPlace.pc.toNat + 1 ≤ 0xFFF ∧
    decodeWord ((zext16 (lastPlace.byteAt lastPlace.pc.toNat) <<< 8) |||
      zext16 (lastPlace.byteAt (lastPlace.pc.toNat + 1))) = .ok (.ldImm 0 0x01) := by decide

theorem witness_StepErrorsInOrder_fetch : 0xFFF ≤ ({ State.reset with pc := 0xFFF } : State).pc.toNat := by decide

/-- The reset state with the illegal word `0x5121` at `pc`. -/
def illegalAtPc : State := State.reset.withFetchWord 16 0x5121

theorem witness_StepErrorsInOrder_unknown :
    illegalAtPc.pc.toNat + 1 ≤ 0xFFF ∧ ∀ i, decodeWord illegalAtPc.wordAtPc ≠ .ok i := by
  refine ⟨by decide, fun i h => ?_⟩
  have e : decodeWord illegalAtPc.wordAtPc = .error (.unknown 0x5121) := by decide
  rw [e] at h
  cases h

theorem witness_ErrorTableIsExact :
    errorOf (.call 0x400) { State.reset with sp := 16 } = some .stackOverflow ∧
    errorOf .ret State.reset = some .stackUnderflow ∧ errorOf (.drw 0 1 2) { State.reset with I := 0xFFF } = some .data ∧
    errorOf (.ldB 0) { State.reset with I := 0xFFE } = some .data ∧
    errorOf (.skp 3) (regs 3 0x10 0 0) = some .keyIndex ∧
    errorOf (.drw 0 1 0) { State.reset with I := 0xFFFF } = none ∧ errorOf (.ldB 0) { State.reset with I := 0xFFD } = none := by
  decide

theorem witness_ErrorsDependOnFewParts :
    UnchangedBut [.stack, .DT, .ST, .fb, .key, .cfg, .draws] State.reset (State.reset.setDT 5) :=
  (State.setDT_frame _ _).mono (by simp)

theorem witness_ErrorsPersist : ({ State.reset with pc := 0xFFF } : State).errored (.outOfBounds .fetch) := rfl

theorem witness_HaltChangesNothing :
    State.reset.pc.toNat + 1 ≤ 0xFFF ∧ State.reset.wordAtPc = 0x0000#16 := by decide

theorem witness_HaltedStaysHalted : ({ State.reset with pc := 0xFFE } : State).halted = true := by decide

theorem witness_RetResult_empty : State.reset.sp.val = 0 := by decide
theorem witness_RetResult : (stacked 16 0x204).sp.val = (15 : Fin 16).val + 1 := by decide

theorem witness_SysJpResult : (0x0E1 : Addr12) ≠ 0x000 ∧ (0x0E1 : Addr12) ≠ 0x0E0 ∧ (0x0E1 : Addr12) ≠ 0x0EE := by decide

theorem witness_JpV0Result_fetch : exec (.jpV0 0xFFF) State.reset = .next (State.reset.setPc 0xFFF) ∧
    0xFFF ≤ (State.reset.setPc 0xFFF).pc.toNat := ⟨rfl, by decide⟩

theorem witness_CallResult_full : (stacked 16 0x204).sp.val = 16 := by decide
theorem witness_CallResult : (stacked 15 0x204).sp.val = (15 : Fin 16).val := by decide

theorem witness_CallThenRetReturns : (stacked 15 0x204).sp.val < 16 := by decide

theorem witness_SkipRegisterResult : (15 : Fin 16) ≠ 0 := by decide

theorem witness_AddRegResult : (14 : RegIdx) ≠ 15 := by decide
theorem witness_SubResult : (0 : RegIdx) ≠ 15 := by decide
theorem witness_SubnShiftResult : (14 : RegIdx) ≠ 15 := by decide

theorem witness_LdBResult_past : 0xFFF < ({ State.reset with I := 0xFFE } : State).effAddr 2 := by decide
theorem witness_LdBResult : ({ State.reset with I := 0xFFD } : State).effAddr 2 ≤ 0xFFF := by decide

theorem witness_LdMemVxResult_past : 0xFFF < ({ State.reset with I := 0xFF1 } : State).effAddr (15 : RegIdx).val := by
  decide
theorem witness_LdMemVxResult : ({ State.reset with I := 0xFF0 } : State).effAddr (15 : RegIdx).val ≤ 0xFFF := by decide

theorem witness_LdVxMemResult_past : 0xFFF < ({ State.reset with I := 0xFFFF } : State).I.toNat + (1 : RegIdx).val := by
  decide
theorem witness_LdVxMemResult : ({ State.reset with I := 0xFFF } : State).I.toNat + (0 : RegIdx).val ≤ 0xFFF := by decide

theorem witness_StoreThenFetch :
    ({ regs 0 0x60 1 0x2A with I := 0x20B } : State).I.toNat + (1 : RegIdx).val ≤ 0xFFF ∧
    (0 : RegIdx).val + 1 ≤ (1 : RegIdx).val ∧
    decodeWord ((zext16 ((regs 0 0x60 1 0x2A).reg 0) <<< 8) ||| zext16 ((regs 0 0x60 1 0x2A).reg 1))
      = .ok (.ldImm 0 0x2A) ∧
    (0x20B#16).toNat = ({ regs 0 0x60 1 0x2A with I := 0x20B } : State).I.toNat + (0 : RegIdx).val := by decide

theorem witness_ReadAfterWrite : 0xFFF ≤ 0xFFF ∧ 0xFFE ≠ 0xFFF := by decide

theorem witness_CanonicalMemoryIsUnique :
    Memory.wf defaultFont [(0x050, 0x01), (0x200, 0x60)] ∧
    ∀ a : Nat, Memory.read defaultFont [(0x050, 0x01), (0x200, 0x60)] a
      = Memory.read defaultFont [(0x050, 0x01), (0x200, 0x60)] a := ⟨by decide, fun _ => rfl⟩

theorem witness_DrwXorsTheSprite_past :
    1 ≤ (2 : Fin 16).val ∧ 0xFFF < ({ State.reset with I := 0xFFF } : State).I.toNat + (2 : Fin 16).val - 1 := by decide
theorem witness_DrwXorsTheSprite_fits : ({ State.reset with I := 0xFFF } : State).I.toNat + (1 : Fin 16).val - 1 ≤ 0xFFF := by
  decide
theorem witness_DrwXorsTheSprite_empty : (0 : Fin 16).val = 0 := by decide

theorem witness_DrwTwiceRestores : (0 : RegIdx) ≠ 15 ∧ (14 : RegIdx) ≠ 15 ∧
    ((15 : Fin 16).val = 0 ∨ ({ State.reset with I := 0xFF1 } : State).I.toNat + (15 : Fin 16).val - 1 ≤ 0xFFF) := by decide

theorem witness_KeySkipResult_past : 15 < ((regs 3 0x10 0 0).reg 3).toNat := by decide
theorem witness_KeySkipResult : ((regs 3 0x0F 0 0).reg 3).toNat = (15 : Fin 16).val := by decide

theorem witness_KeyWaitResult_none : ∀ k : Fin 16, State.reset.key[k] = false := by decide
theorem witness_KeyWaitResult : (State.reset.setKeyFlag 15 true).key[(15 : Fin 16)] = true ∧
    ∀ j : Fin 16, j < 15 → (State.reset.setKeyFlag 15 true).key[j] = false := by decide

theorem witness_TickTimersResult : exec (.ldImm 0 0x05) State.reset = .next (State.reset.setReg 0 0x05).advance := rfl

theorem witness_TickTimersResult_cycle : HostOp.cycle ≠ .tickTimers ∧ HostOp.cycle ≠ .new ∧ HostOp.cycle ≠ .reset ∧
    ∀ x, HostOp.cycle = .cycle →
      State.reset.fetchInstr ≠ .ok (.ldDtVx x) ∧ State.reset.fetchInstr ≠ .ok (.ldStVx x) :=
  ⟨nofun, nofun, nofun, fun _ _ => ⟨nofun, nofun⟩⟩

theorem witness_SoundActiveResult : ({ State.reset with ST := 1 } : State).ST.toNat = 1 := by decide

theorem witness_FramebufferPort : HostOp.setKey 15 true ≠ .cycle ∧ HostOp.setKey 15 true ≠ .new ∧
    HostOp.setKey 15 true ≠ .reset ∧ 63 < 64 ∧ 31 < 32 := by decide

theorem witness_LoadProgramResult_past : 0xE00 < (List.replicate 0xE01 (0xAA : Byte)).length := by
  rw [List.length_replicate]; decide
theorem witness_LoadProgramResult : (List.replicate 0xE00 (0xAA : Byte)).length ≤ 0xE00 := by
  rw [List.length_replicate]

theorem witness_ErrorsChangeNothing :
    operate .cycle { State.reset with pc := 0x1000 }
      = (.status (.error (.outOfBounds .fetch)), { State.reset with pc := 0x1000 }) := rfl

theorem witness_WhichOperationFailsHow :
    operate .cycle { State.reset with pc := 0xFFF }
      = (.status (.error (.outOfBounds .fetch)), { State.reset with pc := 0xFFF }) ∧
    operate (.loadProgram (List.replicate 0xE01 0)) State.reset
      = (.status (.error (.outOfBounds .image)), State.reset) := by
  refine ⟨rfl, ?_⟩
  have h : 0xE00 < (List.replicate 0xE01 (0 : Byte)).length := by rw [List.length_replicate]; decide
  simp only [operate, loadProgram, if_pos h, raise, settle]

theorem witness_WhoWritesWhat : exec (.ldImm 3 0x05) State.reset = .next (State.reset.setReg 3 0x05).advance ∧
    isDest (.ldImm 3 0x05) 4 = false ∧ ¬(writesFlag (.ldImm 3 0x05) = true ∧ (4 : RegIdx) = 15) := ⟨rfl, by decide, by decide⟩

theorem witness_FlagWriters_flag : writesFlag (.shr 0 1) = true ∧
    exec (.shr 0 1) State.reset = .next (State.reset.writeWithFlag 0 (shiftRightOut (State.reset.reg 0))) := ⟨rfl, rfl⟩
theorem witness_FlagWriters_other : writesFlag (.or 0 1) = false ∧ isDest (.or 0 1) 15 = false ∧
    exec (.or 0 1) State.reset = .next (State.reset.setReg 0 (State.reset.reg 0 ||| State.reset.reg 1)).advance :=
  ⟨rfl, rfl, rfl⟩

theorem witness_SoundTimerIsNotRead : step State.reset = .next State.reset ∧
    step { State.reset with pc := 0xFFF } = .fault (.outOfBounds .fetch) := ⟨rfl, rfl⟩
theorem witness_SoundTimerIsNotRead_written : step (State.reset.withFetchWord 16 0xF018)
    = .next ((State.reset.withFetchWord 16 0xF018).setST 0).advance := rfl

theorem witness_StaleStackIsUnobservable :
    (∀ k : Fin 16, k.val < (stacked 1 0x204).sp.val → (Vector.replicate 16 (0x204 : Word))[k] = (stacked 1 0x204).stack[k]) ∧
    step (stacked 1 0x204) = .next (stacked 1 0x204) := ⟨by decide, rfl⟩

theorem witness_PcDoesNotWrap : ({ State.reset with pc := 0xFFE } : State).fetchInstr = .ok .halt := rfl

/-- A state other than reset that meets the invariant: `pc` at the last fetchable address, a pushed address in use. -/
def heldInvariant : State := { stacked 1 0x1000 with pc := 0xFFE, mem := [(0x050, 0x01)] }

theorem witness_Inv : Inv heldInvariant := ⟨by decide, by decide, by decide⟩

theorem witness_StepKeepsInvariant : Inv heldInvariant ∧ step heldInvariant = .next heldInvariant := ⟨witness_Inv, rfl⟩

theorem witness_HostRunsKeepInvariant : Inv heldInvariant := witness_Inv

end Sys2Proof.Tests
end

section
/-! SUPPORT. What a completed instruction does, said once, and the statements of spec/10_state.md derived from it. -/

namespace Sys2Proof.Machine

variable {i : Instr} {s t : State}

/-! ## The effects of completed instructions

The 36 meanings complete in fifteen ways. Each carries what the write table (10_state.md R37) says of the instruction,
so a fact about every instruction is a case split over effects and not over instructions. -/

/-- `Effect i s t`: instruction `i` completes from `s` with `t`, sorted by the named update that makes `t`. -/
inductive Effect (i : Instr) (s : State) : State → Prop
  | stalls : Effect i s s
  | jumps (target : Word) : target.toNat ≤ 0x10FE → writesOf i = [.pc] → Effect i s (s.setPc target)
  | skips (taken : Bool) : writesOf i = [.pc] → Effect i s (s.skipIf taken)
  | pops (target : Word) (u : State) : s.pop? = some (target, u) → writesOf i = [.sp, .pc] →
      Effect i s (u.setPc target)
  | pushes (target : Addr12) (u : State) : s.push? (s.pc + 2) = some u → writesOf i = [.sp, .stack, .pc] →
      Effect i s (u.setPc (zextAddr target))
  | setsReg (x : RegIdx) (v : Byte) : isDest i x = true → writesOf i = [.V, .pc] →
      Effect i s (s.setReg x v).advance
  | samples (x : RegIdx) (v : Byte) : isDest i x = true → writesOf i = [.V, .pc, .draws] →
      Effect i s (s.sample.2.setReg x v).advance
  | flags (x : RegIdx) (r : Byte × Bool) : isDest i x = true → writesFlag i = true → writesOf i = [.V, .pc] →
      Effect i s (s.writeWithFlag x r)
  | loadsRegs (bytes : List Byte) : (∀ j : RegIdx, j.val < bytes.length → isDest i j = true) →
      writesOf i = [.V, .pc] → Effect i s (s.loadRegs bytes).advance
  | draws (vx vy : Byte) (rows : List Byte) : writesFlag i = true → writesOf i = [.V, .fb, .pc] →
      Effect i s (s.draw vx vy rows)
  | clears : writesOf i = [.fb, .pc] → Effect i s (s.setFb Framebuffer.clear).advance
  | setsI (v : Word) : writesOf i = [.I, .pc] → Effect i s (s.setI v).advance
  | setsDT (v : Byte) : writesOf i = [.DT, .pc] → Effect i s (s.setDT v).advance
  | setsST (v : Byte) : writesOf i = [.ST, .pc] → Effect i s (s.setST v).advance
  | storesBytes (a : Nat) (bytes : List Byte) : writesOf i = [.mem, .pc] →
      Effect i s (s.writeBytes a bytes).advance

theorem zextAddr_le (nnn : Addr12) : (zextAddr nnn).toNat ≤ 0xFFF := by
  rw [zextAddr_toNat]; omega

/-- The sum of `Bnnn` is exact and at most `0x10FE` (40_control_transfer.md R105; 10_state.md R36). -/
theorem State.jumpSum_le (s : State) (nnn : Addr12) : (s.jumpSum nnn).toNat ≤ 0x10FE := by
  rw [State.jumpSum, BitVec.toNat_add, zextAddr_toNat, zext16_toNat]; omega

theorem execSkp_eq_next {x : RegIdx} (h : execSkp x s = .next t) : ∃ taken, t = s.skipIf taken := by
  unfold execSkp at h
  split at h
  · cases h
  · cases h; exact ⟨_, rfl⟩

theorem execSknp_eq_next {x : RegIdx} (h : execSknp x s = .next t) : ∃ taken, t = s.skipIf taken := by
  unfold execSknp at h
  split at h
  · cases h
  · cases h; exact ⟨_, rfl⟩

theorem execRet_eq_next (h : execRet s = .next t) : ∃ target u, s.pop? = some (target, u) ∧ t = u.setPc target := by
  unfold execRet at h
  split at h
  · cases h
  · cases h; exact ⟨_, _, ‹_›, rfl⟩

theorem execCall_eq_next {nnn : Addr12} (h : execCall nnn s = .next t) :
    ∃ u, s.push? (s.pc + 2) = some u ∧ t = u.setPc (zextAddr nnn) := by
  unfold execCall at h
  split at h
  · cases h
  · cases h; exact ⟨_, ‹_›, rfl⟩

theorem execLdVxK_eq_next {x : RegIdx} (h : execLdVxK x s = .next t) :
    t = s ∨ ∃ k, t = (s.setReg x (keyByte k)).advance := by
  unfold execLdVxK at h
  split at h
  · cases h; exact .inl rfl
  · cases h; exact .inr ⟨_, rfl⟩

/-- Every completed instruction has one of the effects. -/
theorem exec_effect (h : exec i s = .next t) : Effect i s t := by
  cases i with
  | halt => cases h; exact .stalls
  | cls => cases h; exact .clears rfl
  | ret =>
    obtain ⟨target, u, hu, rfl⟩ := execRet_eq_next h
    exact .pops target u hu rfl
  | sys nnn | jp nnn => cases h; exact .jumps _ ((zextAddr_le nnn).trans (by decide)) rfl
  | jpV0 nnn => cases h; exact .jumps _ (s.jumpSum_le nnn) rfl
  | call nnn =>
    obtain ⟨u, hu, rfl⟩ := execCall_eq_next h
    exact .pushes nnn u hu rfl
  | seImm x k | sneImm x k | seReg x y | sneReg x y => cases h; exact .skips _ rfl
  | skp x => obtain ⟨taken, rfl⟩ := execSkp_eq_next h; exact .skips taken rfl
  | sknp x => obtain ⟨taken, rfl⟩ := execSknp_eq_next h; exact .skips taken rfl
  | ldImm x k | addImm x k | ldReg x y | or x y | and x y | xor x y | ldVxDt x =>
    cases h; exact .setsReg x _ (beq_self_eq_true x) rfl
  | ldVxK x =>
    obtain rfl | ⟨k, rfl⟩ := execLdVxK_eq_next h
    · exact .stalls
    · exact .setsReg x _ (beq_self_eq_true x) rfl
  | rnd x k => cases h; exact .samples x _ (beq_self_eq_true x) rfl
  | addReg x y | sub x y | shr x y | subn x y | shl x y => cases h; exact .flags x _ (beq_self_eq_true x) rfl rfl
  | ldVxMem x =>
    obtain ⟨-, h⟩ := guardData_eq_next.1 h
    cases h
    refine .loadsRegs _ (fun j hj => decide_eq_true ?_) rfl
    rw [State.readBytes_length] at hj
    exact Nat.lt_succ_iff.1 hj
  | drw x y n =>
    obtain ⟨-, h⟩ := guardData_eq_next.1 h
    cases h; exact .draws _ _ _ rfl rfl
  | ldI nnn | addI x | ldF x => cases h; exact .setsI _ rfl
  | ldDtVx x => cases h; exact .setsDT _ rfl
  | ldStVx x => cases h; exact .setsST _ rfl
  | ldB x | ldMemVx x =>
    obtain ⟨-, h⟩ := guardData_eq_next.1 h
    cases h; exact .storesBytes _ _ rfl

/-! ## The write table (10_state.md R37) -/

theorem UnchangedBut.thenSetPc {fs : List Field} (h : UnchangedBut fs s t) (p : Word) :
    UnchangedBut (fs ++ [.pc]) s (t.setPc p) := h.append (t.setPc_frame p)

theorem UnchangedBut.thenAdvance {fs : List Field} (h : UnchangedBut fs s t) :
    UnchangedBut (fs ++ [.pc]) s t.advance := h.thenSetPc _

/-- An effect stays inside the instruction's entry of the write table. -/
theorem Effect.frame (h : Effect i s t) : UnchangedBut (writesOf i) s t := by
  cases h with
  | stalls => exact .refl _ s
  | jumps target _ hw => rw [hw]; exact s.setPc_frame target
  | skips taken hw => rw [hw]; exact s.skipIf_frame taken
  | pops target u hu hw => rw [hw]; exact (s.pop?_frame hu).thenSetPc target
  | pushes target u hu hw => rw [hw]; exact (s.push?_frame hu).thenSetPc _
  | setsReg x v _ hw => rw [hw]; exact (s.setReg_frame x v).thenAdvance
  | samples x v _ hw =>
    rw [hw]; exact (s.sample_frame.append (State.setReg_frame _ x v).thenAdvance).mono (by simp)
  | flags x r _ _ hw => rw [hw]; exact s.writeWithFlag_frame x r
  | loadsRegs bytes _ hw => rw [hw]; exact (s.loadRegs_frame bytes).thenAdvance
  | draws vx vy rows _ hw => rw [hw]; exact s.draw_frame vx vy rows
  | clears hw => rw [hw]; exact (s.setFb_frame _).thenAdvance
  | setsI v hw => rw [hw]; exact (s.setI_frame v).thenAdvance
  | setsDT v hw => rw [hw]; exact (s.setDT_frame v).thenAdvance
  | setsST v hw => rw [hw]; exact (s.setST_frame v).thenAdvance
  | storesBytes a bytes hw => rw [hw]; exact (s.writeBytes_frame a bytes).thenAdvance

theorem exec_frame (h : exec i s = .next t) : UnchangedBut (writesOf i) s t := (exec_effect h).frame

/-- A register that is no destination is another one than every destination. -/
theorem ne_of_isDest {x j : RegIdx} (hx : isDest i x = true) (hj : isDest i j = false) : j ≠ x := by
  rintro rfl
  rw [hx] at hj
  cases hj

/-- An effect writes only the named destinations and, in a flag writer, VF. -/
theorem Effect.reg_eq (h : Effect i s t) {j : RegIdx} (hj : isDest i j = false)
    (hf : ¬(writesFlag i = true ∧ j = 15)) : t.reg j = s.reg j := by
  cases h with
  | setsReg x v hx _ =>
    rw [State.reg_congr (State.advance_V _), State.reg_setReg, if_neg (ne_of_isDest hx hj)]
  | samples x v hx _ =>
    rw [State.reg_congr (State.advance_V _), State.reg_setReg, if_neg (ne_of_isDest hx hj),
      State.reg_congr s.sample_V]
  | flags x r hx hi _ =>
    rw [State.reg_writeWithFlag, if_neg fun e => hf ⟨hi, e⟩, if_neg (ne_of_isDest hx hj)]
  | loadsRegs bytes hd _ =>
    have hlen : bytes.length ≤ j.val := Nat.le_of_not_lt fun hlt => by simp [hd j hlt] at hj
    rw [State.reg_congr (State.advance_V _), State.reg_loadRegs, List.getElem?_eq_none hlen, Option.getD_none]
  | draws vx vy rows hi _ => rw [State.reg_draw, if_neg fun e => hf ⟨hi, e⟩]
  | pops target u hu _ => exact s.pop?_frame hu .V (by decide) j
  | pushes target u hu _ => exact s.push?_frame hu .V (by decide) j
  | stalls | jumps | skips | clears | setsI | setsDT | setsST | storesBytes => rfl

/-- Settles O52: the effect of a completed instruction is inside its entry of the write table, register by register. -/
theorem whoWritesWhat : Obligations.WhoWritesWhat := by
  intro i s t h
  exact ⟨exec_frame h, fun j hj hf => (exec_effect h).reg_eq hj hf⟩

/-! ## The flag (10_state.md R21) -/

theorem flagByte_eq_zero_or_one (b : Bool) : flagByte b = 0x00 ∨ flagByte b = 0x01 := by
  cases b
  · exact .inl rfl
  · exact .inr rfl

/-- The six flag writers leave a flag in VF. -/
theorem exec_reg15_of_writesFlag (h : exec i s = .next t) (hf : writesFlag i = true) :
    ∃ b, t.reg 15 = flagByte b := by
  cases i with
  | addReg x y | sub x y | shr x y | subn x y | shl x y => cases h; exact ⟨_, State.reg_writeWithFlag _ _ _ _⟩
  | drw x y n =>
    obtain ⟨-, h⟩ := guardData_eq_next.1 h
    cases h; exact ⟨_, State.reg_draw _ _ _ _ _⟩
  | _ => cases hf

/-- Settles O53: what a flag writer leaves in VF is a flag, and for the others VF is one register of the write table. -/
theorem flagWriters : Obligations.FlagWriters := by
  intro i s t h
  refine ⟨fun hf => ?_, fun hf hd => (exec_effect h).reg_eq hd fun ⟨hw, _⟩ => ?_⟩
  · obtain ⟨b, hb⟩ := exec_reg15_of_writesFlag h hf
    rw [hb]
    exact flagByte_eq_zero_or_one b
  · rw [hf] at hw
    cases hw

end Sys2Proof.Machine
end

section
/-! SUPPORT. What no instruction can observe: `ST`, and the stack entries at `sp` and above
(spec/10_state.md R24, R30). -/

namespace Sys2Proof.Machine

variable {i : Instr} {s t : State}

/-! ## The stack and `ST` are hidden from almost every instruction -/

/-- The stack entries and `ST` replaced, everything else kept. -/
def State.mapHidden (g : Vector Word 16 → Vector Word 16) (f : Byte → Byte) (s : State) : State :=
  { s with stack := g s.stack, ST := f s.ST }

/-- A result with its next state changed; an error has none. -/
def mapNext (f : State → State) : Result → Result
  | .next t => .next (f t)
  | .fault r => .fault r
  | .refused r => .refused r

theorem mapNext_guardData (f : State → State) (highest : Nat) (k : Result) :
    mapNext f (guardData highest k) = guardData highest (mapNext f k) := by
  unfold guardData
  split <;> rfl

section Hidden

variable (g : Vector Word 16 → Vector Word 16) (f : Byte → Byte)

/-- The fetch reads neither the stack nor `ST`. -/
theorem State.fetchInstr_mapHidden (s : State) : (s.mapHidden g f).fetchInstr = s.fetchInstr := rfl

/-- The key a register names is the same one, and as far down. -/
theorem State.keyAt?_reg_mapHidden (s : State) (x : RegIdx) :
    (s.mapHidden g f).keyAt? ((s.mapHidden g f).reg x) = s.keyAt? (s.reg x) := rfl

theorem execSkp_mapHidden (x : RegIdx) :
    execSkp x (s.mapHidden g f) = mapNext (State.mapHidden g f) (execSkp x s) := by
  unfold execSkp
  rw [State.keyAt?_reg_mapHidden]
  cases s.keyAt? (s.reg x) <;> rfl

theorem execSknp_mapHidden (x : RegIdx) :
    execSknp x (s.mapHidden g f) = mapNext (State.mapHidden g f) (execSknp x s) := by
  unfold execSknp
  rw [State.keyAt?_reg_mapHidden]
  cases s.keyAt? (s.reg x) <;> rfl

theorem execLdVxK_mapHidden (x : RegIdx) :
    execLdVxK x (s.mapHidden g f) = mapNext (State.mapHidden g f) (execLdVxK x s) := by
  unfold execLdVxK
  rw [show (s.mapHidden g f).key = s.key from rfl]
  cases firstPressed s.key <;> rfl

/-- An instruction that does not write `sp` (CALL, RET) or `ST` (LD_ST_VX) commutes with replacing the stack and
`ST`. -/
theorem exec_mapHidden (hsp : .sp ∉ writesOf i) (hst : .ST ∉ writesOf i) :
    exec i (s.mapHidden g f) = mapNext (State.mapHidden g f) (exec i s) := by
  cases i with
  | ret | call nnn => exact absurd List.mem_cons_self hsp
  | ldStVx x => exact absurd List.mem_cons_self hst
  | drw | ldB | ldMemVx | ldVxMem => exact Eq.symm (mapNext_guardData _ _ _)
  | skp x => exact execSkp_mapHidden g f x
  | sknp x => exact execSknp_mapHidden g f x
  | ldVxK x => exact execLdVxK_mapHidden g f x
  | _ => rfl

end Hidden

/-- The three instructions that are no case of `exec_mapHidden`. -/
theorem hidden_or_ret_call_ldStVx (i : Instr) :
    (.sp ∉ writesOf i ∧ .ST ∉ writesOf i) ∨ i = .ret ∨ (∃ nnn, i = .call nnn) ∨ ∃ x, i = .ldStVx x := by
  cases i with
  | ret => exact .inr (.inl rfl)
  | call nnn => exact .inr (.inr (.inl ⟨nnn, rfl⟩))
  | ldStVx x => exact .inr (.inr (.inr ⟨x, rfl⟩))
  | _ => exact .inl ⟨by simp [writesOf], by simp [writesOf]⟩

/-! The two uses of the call stack, each on the states where it completes and where it ends with its error. -/

theorem execRet_of_pos (h : 0 < s.sp.val) :
    execRet s = .next { s with sp := ⟨s.sp.val - 1, by omega⟩, pc := s.stack[s.sp.val - 1] } := by
  rw [execRet, (s.pop?_eq_some).2 ⟨h, rfl⟩]
  rfl

theorem execRet_of_empty (h : s.sp.val = 0) : execRet s = .fault (.outOfBounds .stackUnderflow) := by
  rw [execRet, s.pop?_eq_none.2 h]
  rfl

theorem execCall_of_lt {nnn : Addr12} (h : s.sp.val < 16) :
    execCall nnn s = .next { s with
      stack := s.stack.set s.sp.val (s.pc + 2), sp := ⟨s.sp.val + 1, by omega⟩, pc := zextAddr nnn } := by
  rw [execCall, (s.push?_eq_some).2 ⟨h, rfl⟩]
  rfl

theorem execCall_of_full {nnn : Addr12} (h : s.sp.val = 16) :
    execCall nnn s = .fault (.outOfBounds .stackOverflow) := by
  rw [execCall, (s.push?_eq_none _).2 h]
  rfl

/-- Two states that fetch alike step as the fetched instruction runs in each: a relation between results that the errors
of the fetch and every instruction satisfy holds of the two steps. -/
theorem step_rel {R : Result → Result → Prop} {s u : State} (hfetch : u.fetchInstr = s.fetchInstr)
    (hfault : ∀ r, R (.fault r) (.fault r)) (hexec : ∀ i, R (exec i s) (exec i u)) : R (step s) (step u) := by
  unfold step
  rw [hfetch]
  cases s.fetchInstr with
  | error r => exact hfault r
  | ok i => exact hexec i

/-! ## The sound timer -/

/-- Two results differ at most in `ST`, which is `v` in the second where they do. -/
def AlikeButST (v : Byte) (a b : Result) : Prop := b = mapNext (·.setST v) a ∨ b = a

theorem exec_setST (hsp : .sp ∉ writesOf i) (hst : .ST ∉ writesOf i) (v : Byte) :
    exec i (s.setST v) = mapNext (·.setST v) (exec i s) := exec_mapHidden id (fun _ => v) hsp hst

theorem execRet_setST (v : Byte) : execRet (s.setST v) = mapNext (·.setST v) (execRet s) := by
  rcases Nat.eq_zero_or_pos s.sp.val with h | h
  · rw [execRet_of_empty h, execRet_of_empty (s := s.setST v) h]
    rfl
  · rw [execRet_of_pos h, execRet_of_pos (s := s.setST v) h]
    rfl

theorem execCall_setST (v : Byte) (nnn : Addr12) :
    execCall nnn (s.setST v) = mapNext (·.setST v) (execCall nnn s) := by
  rcases Nat.lt_or_eq_of_le (Nat.le_of_lt_succ s.sp.isLt) with h | h
  · rw [execCall_of_lt h, execCall_of_lt (s := s.setST v) h]
    rfl
  · rw [execCall_of_full h, execCall_of_full (s := s.setST v) h]
    rfl

theorem exec_alikeButST (i : Instr) (s : State) (v : Byte) : AlikeButST v (exec i s) (exec i (s.setST v)) := by
  obtain ⟨hsp, hst⟩ | rfl | ⟨nnn, rfl⟩ | ⟨x, rfl⟩ := hidden_or_ret_call_ldStVx i
  · exact .inl (exec_setST hsp hst v)
  · exact .inl (execRet_setST v)
  · exact .inl (execCall_setST v nnn)
  · exact .inr rfl

/-- Settles O54: the fetch does not read `ST`, and no instruction does: LD_ST_VX writes it whatever it was. -/
theorem soundTimerIsNotRead : Obligations.SoundTimerIsNotRead := by
  intro s v
  have hstep : AlikeButST v (step s) (step (s.setST v)) :=
    step_rel (s.fetchInstr_mapHidden id fun _ => v) (fun _ => .inr rfl) (exec_alikeButST · s v)
  refine ⟨fun t ht => ?_, fun r hr => ?_⟩
  · rw [ht] at hstep
    exact hstep
  · rw [hr] at hstep
    exact hstep.elim id id

/-! ## Stale stack entries -/

/-- The stack `other` holds what the stack of `s` holds in every entry in use (10_state.md R24). -/
def State.AgreesInUse (s : State) (other : Vector Word 16) : Prop :=
  ∀ k : Fin 16, k.val < s.sp.val → other[k] = s.stack[k]

/-- The same error, or next states that differ only in entries of the stack not in use. -/
def AlikeInUse : Result → Result → Prop
  | .next t, b => ∃ after, b = .next { t with stack := after } ∧ t.AgreesInUse after
  | .fault r, b => b = .fault r
  | .refused r, b => b = .refused r

/-- An instruction that writes the stack writes `sp` too (10_state.md R37). -/
theorem sp_mem_writesOf_of_stack (h : .stack ∈ writesOf i) : .sp ∈ writesOf i := by
  cases i with
  | call nnn => exact List.mem_cons_self
  | _ => simp [writesOf] at h

/-- An instruction that leaves `sp` and the stack alone leaves the entries in use what they are. -/
theorem exec_alikeInUse_of_hidden {other : Vector Word 16} (hs : s.AgreesInUse other) (hsp : .sp ∉ writesOf i)
    (hst : .ST ∉ writesOf i) : AlikeInUse (exec i s) (exec i { s with stack := other }) := by
  have hcomm : exec i { s with stack := other } = mapNext (State.mapHidden (fun _ => other) id) (exec i s) :=
    exec_mapHidden (fun _ => other) id hsp hst
  rw [hcomm]
  cases h : exec i s with
  | next t =>
    have hspt : t.sp = s.sp := exec_frame h .sp hsp
    have hstack : .stack ∉ writesOf i := fun hmem => hsp (sp_mem_writesOf_of_stack hmem)
    refine ⟨other, rfl, fun k hk => ?_⟩
    rw [hs k (hspt ▸ hk)]
    exact (exec_frame h .stack hstack k).symm
  | fault r => rfl
  | refused r => rfl

theorem execRet_alikeInUse {other : Vector Word 16} (hs : s.AgreesInUse other) :
    AlikeInUse (execRet s) (execRet { s with stack := other }) := by
  rcases Nat.eq_zero_or_pos s.sp.val with h | h
  · rw [execRet_of_empty h, execRet_of_empty (s := { s with stack := other }) h]
    rfl
  · have htop : other[s.sp.val - 1] = s.stack[s.sp.val - 1] := hs ⟨s.sp.val - 1, by omega⟩ (by simp; omega)
    rw [execRet_of_pos h, execRet_of_pos (s := { s with stack := other }) h]
    refine ⟨other, ?_, fun k hk => hs k (Nat.lt_of_lt_of_le hk (Nat.sub_le _ _))⟩
    simp only [htop]

theorem execCall_alikeInUse {other : Vector Word 16} (nnn : Addr12) (hs : s.AgreesInUse other) :
    AlikeInUse (execCall nnn s) (execCall nnn { s with stack := other }) := by
  rcases Nat.lt_or_eq_of_le (Nat.le_of_lt_succ s.sp.isLt) with h | h
  · rw [execCall_of_lt h, execCall_of_lt (s := { s with stack := other }) h]
    refine ⟨other.set s.sp.val (s.pc + 2), rfl, fun k hk => ?_⟩
    have hk : k.val < s.sp.val + 1 := hk
    simp only [Fin.getElem_fin, Vector.getElem_set]
    split_ifs with heq
    · rfl
    · exact hs k (by omega)
  · rw [execCall_of_full h, execCall_of_full (s := { s with stack := other }) h]
    rfl

theorem exec_alikeInUse (i : Instr) {other : Vector Word 16} (hs : s.AgreesInUse other) :
    AlikeInUse (exec i s) (exec i { s with stack := other }) := by
  obtain ⟨hsp, hst⟩ | rfl | ⟨nnn, rfl⟩ | ⟨x, rfl⟩ := hidden_or_ret_call_ldStVx i
  · exact exec_alikeInUse_of_hidden hs hsp hst
  · exact execRet_alikeInUse hs
  · exact execCall_alikeInUse nnn hs
  · exact ⟨other, rfl, hs⟩

/-- Settles O55: RET reads an entry in use, CALL writes the entry it brings into use, and no other instruction touches
the stack. -/
theorem staleStackIsUnobservable : Obligations.StaleStackIsUnobservable := by
  intro s other hs
  have hstep : AlikeInUse (step s) (step { s with stack := other }) :=
    step_rel (s.fetchInstr_mapHidden (fun _ => other) id) (fun _ => rfl) fun i => exec_alikeInUse i hs
  refine ⟨fun t ht => ?_, fun r hr => ?_⟩
  · rw [ht] at hstep
    exact hstep
  · rw [hr] at hstep
    exact hstep

end Sys2Proof.Machine
end

section
/-! SUPPORT. The reset values and the invariant of spec/10_state.md R35, R36, kept by every step and host operation. -/

namespace Sys2Proof.Machine

variable {i : Instr} {s t : State}

/-! ## `pc` (10_state.md R36) -/

/-- A cycle that finds an instruction fetched inside the space (30_encoding.md R81). -/
theorem State.pc_le_of_fetchInstr (h : s.fetchInstr = .ok i) : s.pc.toNat ≤ 0xFFE := by
  rw [State.fetchInstr_eq] at h
  split_ifs at h with hpc
  exact hpc

theorem pc_add_two {pc : Word} (h : pc.toNat ≤ 0xFFE) : (pc + 2).toNat = pc.toNat + 2 :=
  BitVec.toNat_add_of_lt (by simp; omega)

theorem pc_add_four {pc : Word} (h : pc.toNat ≤ 0xFFE) : (pc + 4).toNat = pc.toNat + 4 :=
  BitVec.toNat_add_of_lt (by simp; omega)

/-- Settles O56: a fetch is at most at `0xFFE`, where both sums are far below `0x10000`. -/
theorem pcDoesNotWrap : Obligations.PcDoesNotWrap := by
  intro s i h
  have hpc := State.pc_le_of_fetchInstr h
  exact ⟨pc_add_two hpc, pc_add_four hpc⟩

/-- A step that completes ran the instruction it fetched. -/
theorem step_eq_next (h : step s = .next t) : ∃ i, s.fetchInstr = .ok i ∧ exec i s = .next t := by
  unfold step at h
  cases hi : s.fetchInstr with
  | error r => rw [hi] at h; cases h
  | ok i => rw [hi] at h; exact ⟨i, rfl, h⟩

/-! ## The reset state (10_state.md R35) -/

/-- After reset every byte of memory has its reset contents. -/
theorem State.byteAt_doReset (s : State) (a : Nat) : s.doReset.byteAt a = Memory.unlisted s.cfg.font a := rfl

theorem Memory.unlisted_font (font : Vector Byte 80) (k : Nat) (h : k < 80) :
    Memory.unlisted font (0x050 + k) = font[k] := by
  rw [Memory.unlisted, dif_pos (by omega)]
  simp

theorem Memory.unlisted_zero (font : Vector Byte 80) (a : Nat) (h : a ≤ 0x04F ∨ 0x0A0 ≤ a) :
    Memory.unlisted font a = 0x00 := by
  rw [Memory.unlisted, dif_neg (by omega)]

/-- A reset brings every state to the reset values, with the font of its own configuration. -/
theorem State.doReset_resetValues (s : State) : ResetValues s.doReset := by
  have hreg (j : RegIdx) : s.doReset.reg j = 0 := Vector.getElem_replicate _
  have hstack (k : Fin 16) : s.doReset.stack[k] = 0x0000 := Vector.getElem_replicate _
  have hfont (k : Nat) (h : k < 80) : s.doReset.byteAt (0x050 + k) = s.doReset.cfg.font[k] := by
    rw [State.byteAt_doReset, Memory.unlisted_font _ k h]
    rfl
  have hzero (a : Nat) (h : a ≤ 0x04F ∨ (0x0A0 ≤ a ∧ a ≤ 0xFFF)) : s.doReset.byteAt a = 0x00 := by
    rw [State.byteAt_doReset, Memory.unlisted_zero _ a (h.imp_right And.left)]
  have hpixel (px py : Nat) : s.doReset.fb.pixel px py = false := Framebuffer.pixel_clear px py
  have hkey (k : Fin 16) : s.doReset.key[k] = false := Vector.getElem_replicate _
  exact ⟨hreg, rfl, rfl, rfl, hstack, rfl, rfl, rfl, hfont, hzero, hpixel, hkey⟩

/-- Settles O47: the state after reset is a reset state of its own configuration. -/
theorem resetStateValues : Obligations.ResetStateValues := State.reset.doReset_resetValues

/-! ## The invariant (10_state.md R36)

Its three parts are kept one by one: memory by every effect, the bounds by every effect of an instruction that was
fetched inside the space. -/

theorem State.doReset_inv (s : State) : Inv s.doReset := by
  obtain ⟨-, -, hpc, -, hstack, -⟩ := s.doReset_resetValues
  refine ⟨?_, fun k => ?_, Memory.wf_nil _⟩
  · rw [hpc]
    decide
  · rw [hstack k]
    decide

/-- Settles O57: the state after reset is a reset state of its own configuration. -/
theorem invariantAtReset : Obligations.InvariantAtReset := State.reset.doReset_inv

/-- An effect leaves memory canonical: it stores bytes or leaves the list as it is. -/
theorem Effect.wf_mem (h : Effect i s t) (hm : Memory.wf s.cfg.font s.mem) : Memory.wf t.cfg.font t.mem := by
  cases h with
  | storesBytes a bytes => exact s.wf_writeBytes a bytes hm
  | pops target u hu => obtain ⟨_, e⟩ := s.pop?_eq_some.1 hu; cases e; exact hm
  | pushes target u hu => obtain ⟨_, rfl⟩ := s.push?_eq_some.1 hu; exact hm
  | _ => exact hm

/-- An effect writes at most one stack entry, the address after a CALL. -/
theorem Effect.stack_le (h : Effect i s t) (hpc : s.pc.toNat ≤ 0xFFE)
    (hstack : ∀ k : Fin 16, s.stack[k].toNat ≤ 0x1000) (k : Fin 16) : t.stack[k].toNat ≤ 0x1000 := by
  cases h with
  | pushes target u hu =>
    obtain ⟨_, rfl⟩ := s.push?_eq_some.1 hu
    simp only [State.setPc_stack, Fin.getElem_fin, Vector.getElem_set]
    split_ifs
    · rw [pc_add_two hpc]
      omega
    · exact hstack k
  | pops target u hu => obtain ⟨_, e⟩ := s.pop?_eq_some.1 hu; cases e; exact hstack k
  | _ => exact hstack k

/-- An effect moves `pc` by 0, 2 or 4, to a jump's target or to a stack entry. -/
theorem Effect.pc_le (h : Effect i s t) (hpc : s.pc.toNat ≤ 0xFFE)
    (hstack : ∀ k : Fin 16, s.stack[k].toNat ≤ 0x1000) : t.pc.toNat ≤ 0x10FE := by
  have htwo : (s.pc + 2).toNat ≤ 0x10FE := by rw [pc_add_two hpc]; omega
  have hfour : (s.pc + 4).toNat ≤ 0x10FE := by rw [pc_add_four hpc]; omega
  cases h with
  | stalls => exact hpc.trans (by decide)
  | jumps target ht => exact ht
  | skips taken =>
    cases taken
    · exact htwo
    · exact hfour
  | pops target u hu =>
    obtain ⟨h0, e⟩ := s.pop?_eq_some.1 hu
    cases e
    exact (hstack ⟨s.sp.val - 1, by omega⟩).trans (by decide)
  | pushes target => exact (zextAddr_le target).trans (by decide)
  | _ => exact htwo

/-- A step that completes keeps the invariant. -/
theorem step_inv (hs : Inv s) (h : step s = .next t) : Inv t := by
  obtain ⟨i, hi, ht⟩ := step_eq_next h
  obtain ⟨-, hstack, hmem⟩ := hs
  have hpc := State.pc_le_of_fetchInstr hi
  have heff := exec_effect ht
  exact ⟨heff.pc_le hpc hstack, heff.stack_le hpc hstack, heff.wf_mem hmem⟩

/-- Settles O58: an instruction is fetched at `0xFFE` or below, and its effect keeps each part of the invariant. -/
theorem stepKeepsInvariant : Obligations.StepKeepsInvariant := fun _ _ hs h => step_inv hs h

/-- Loading a program keeps the invariant: it stores bytes only. -/
theorem loadProgram_inv {bytes : List Byte} (hs : Inv s) (h : loadProgram bytes s = .next t) : Inv t := by
  obtain ⟨hpc, hstack, hmem⟩ := hs
  unfold loadProgram at h
  split at h
  · cases h
  · cases h
    exact ⟨hpc, hstack, s.wf_writeBytes 0x200 bytes hmem⟩

/-- What holds before an operation and of its next state holds after it, error or not (60_exceptions.md R203). -/
theorem settle_keeps {P : State → Prop} (hs : P s) {r : Result} (h : ∀ t, r = .next t → P t) :
    P (settle s r).2 := by
  cases r with
  | next t => exact h t rfl
  | fault r => exact hs
  | refused r => exact hs

/-- Every host operation keeps the invariant. -/
theorem operate_inv (op : HostOp) (hs : Inv s) : Inv (operate op s).2 := by
  cases op with
  | new | reset => exact s.doReset_inv
  | loadProgram bytes => exact settle_keeps hs fun _ => loadProgram_inv hs
  | cycle => exact settle_keeps hs fun _ => step_inv hs
  | setKey | tickTimers | framebuffer | soundActive => exact hs

/-- Settles O59, by induction on the list of operations. -/
theorem hostRunsKeepInvariant : Obligations.HostRunsKeepInvariant := by
  intro ops
  induction ops with
  | nil => exact fun _ hs => hs
  | cons op ops ih => exact fun s hs => ih _ (operate_inv op hs)

end Sys2Proof.Machine
end

section
/-! SUPPORT. Memory (spec/20_memory.md): a memory is the reads of it (R57), and a fetch sees what was stored (R52,
R61). -/

namespace Sys2Proof.Machine

/-! ## Reads and writes of one byte (20_memory.md R57) -/

/-- Settles O34: both laws are the read after a write, and a stored byte is a list of one. -/
theorem readAfterWrite : Obligations.ReadAfterWrite := by
  intro s a b v w ha
  refine ⟨?_, fun hb => ?_, s.writeBytes_frame a [v]⟩
  · rw [State.byteAt_writeByte, if_pos ⟨rfl, ha⟩]
  · rw [State.byteAt_writeByte, if_neg fun h => hb h.1]

/-! ## The canonical form (log entry 11)

A canonical list holds the cells that read other than as reset, in rising order, so the reads determine it. -/

section Canonical

variable {font : Vector Byte 80} {m : Memory}

theorem Memory.mem_of_lookup {a : Nat} {v : Byte} (h : Memory.lookup m a = some v) : (a, v) ∈ m := by
  induction m with
  | nil => cases h
  | cons c m ih =>
    obtain ⟨b, w⟩ := c
    rw [Memory.lookup] at h
    split_ifs at h with hab
    · obtain rfl := Option.some.inj h
      exact hab ▸ List.mem_cons_self
    · exact List.mem_cons_of_mem _ (ih h)

/-- With rising addresses no earlier cell hides a listed one. -/
theorem Memory.lookup_of_mem (hs : m.Pairwise fun c d => c.1 < d.1) {c : Host.Cell} (h : c ∈ m) :
    Memory.lookup m c.1 = some c.2 := by
  induction m with
  | nil => cases h
  | cons d m ih =>
    obtain ⟨hd, hm⟩ := List.pairwise_cons.1 hs
    obtain rfl | h := List.mem_cons.1 h
    · exact if_pos rfl
    · have hne : c.1 ≠ d.1 := (hd c h).ne'
      exact (if_neg hne).trans (ih hm h)

/-- The cells of a canonical memory, told by its reads. -/
theorem Memory.mem_iff_read (hwf : Memory.wf font m) (c : Host.Cell) :
    c ∈ m ↔ Memory.read font m c.1 = c.2 ∧ c.2 ≠ Memory.unlisted font c.1 := by
  obtain ⟨hs, hcells⟩ := hwf
  constructor
  · intro h
    exact ⟨by rw [Memory.read, Memory.lookup_of_mem hs h, Option.getD_some], (hcells c h).2⟩
  · rintro ⟨hread, hne⟩
    rw [Memory.read] at hread
    cases hl : Memory.lookup m c.1 with
    | none => rw [hl] at hread; exact absurd hread.symm hne
    | some v =>
      rw [hl, Option.getD_some] at hread
      exact Memory.mem_of_lookup (hread ▸ hl)

end Canonical

/-- Settles O35: equal reads give the same cells, and two rising lists of the same cells are the same list. -/
theorem canonicalMemoryIsUnique : Obligations.CanonicalMemoryIsUnique := by
  intro font m n hm hn hread
  have hcells (c : Host.Cell) : c ∈ m ↔ c ∈ n := by
    rw [Memory.mem_iff_read hm, Memory.mem_iff_read hn, hread]
  have hirrefl : Std.Irrefl fun c d : Host.Cell => c.1 < d.1 := ⟨fun c => Nat.lt_irrefl c.1⟩
  have hasymm : Std.Asymm fun c d : Host.Cell => c.1 < d.1 := ⟨fun _ _ => Nat.lt_asymm⟩
  exact hm.1.eq_of_mem_iff hn.1 hcells

/-! ## Fetch (20_memory.md R52, R61) -/

section Fetch

variable (s : State)

/-- A word of a row at `pc` is the instruction the cycle fetches. -/
theorem State.fetchInstr_of_decode {i : Instr} (hpc : s.pc.toNat + 1 ≤ 0xFFF)
    (h : decodeWord s.wordAtPc = .ok i) : s.fetchInstr = .ok i := by
  rw [State.wordAtPc, ← wordOfBytes_eq_shift_or] at h
  rw [State.fetchInstr_eq, if_pos (by omega), h]

/-- A step runs the instruction it fetched. -/
theorem step_of_fetchInstr {i : Instr} (h : s.fetchInstr = .ok i) : step s = exec i s := by
  rw [step, h]

/-- LD_MEM_VX inside the space (44_index_memory.md R154). -/
theorem exec_ldMemVx_of_le {x : RegIdx} (h : s.effAddr x.val ≤ 0xFFF) :
    exec (.ldMemVx x) s = .next (s.writeBytes (s.effAddr 0) (s.regsUpTo x)).advance :=
  guardData_of_le h

/-- Each stored register is the byte at its own address (44_index_memory.md R154). -/
theorem State.byteAt_writeBytes_regsUpTo {x k : RegIdx} {a : Nat} (hk : k.val ≤ x.val) (h : a + k.val ≤ 0xFFF) :
    (s.writeBytes a (s.regsUpTo x)).byteAt (a + k.val) = s.reg k := by
  rw [State.byteAt_writeBytes, State.regsUpTo_length, if_pos (by omega), Nat.add_sub_cancel_left,
    List.getD_eq_getElem?_getD, State.regsUpTo_getElem? s x k.val hk, Option.getD_some]

/-- Two stored registers, the first at `pc`, are the word at `pc` (20_memory.md R52, R61). -/
theorem State.wordAtPc_of_stored_regs {x k : RegIdx} {a : Nat} {t : State} (hk : k.val + 1 < 16)
    (hx : a + x.val ≤ 0xFFF) (hkx : k.val + 1 ≤ x.val) (hpc : t.pc.toNat = a + k.val)
    (hmem : ∀ b, t.byteAt b = (s.writeBytes a (s.regsUpTo x)).byteAt b) :
    t.wordAtPc = (zext16 (s.reg k) <<< 8) ||| zext16 (s.reg ⟨k.val + 1, hk⟩) := by
  have hhi : t.byteAt t.pc.toNat = s.reg k := by
    rw [hpc, hmem, s.byteAt_writeBytes_regsUpTo (by omega) (by omega)]
  have hlo : t.byteAt (t.pc.toNat + 1) = s.reg ⟨k.val + 1, hk⟩ := by
    rw [hpc, hmem]
    exact s.byteAt_writeBytes_regsUpTo (k := ⟨k.val + 1, hk⟩) hkx ((Nat.add_le_add_left hkx a).trans hx)
  rw [State.wordAtPc, hhi, hlo]

end Fetch

/-- Settles O7: the word the fetch reads is the spec's `(hi << 8) | lo`. -/
theorem stepRunsDecodedInstruction : Obligations.StepRunsDecodedInstruction :=
  fun s _ hpc h => step_of_fetchInstr s (s.fetchInstr_of_decode hpc h)

/-- Settles O33: at `p` the cycle reads the two stored registers as one word, and runs what it decodes to. -/
theorem storeThenFetch : Obligations.StoreThenFetch := by
  intro s x k i hk hx hkx h
  refine ⟨_, exec_ldMemVx_of_le s hx, fun p hp => ?_⟩
  have hword := s.wordAtPc_of_stored_regs (a := s.effAddr 0)
    (t := ((s.writeBytes (s.effAddr 0) (s.regsUpTo x)).advance).setPc p) hk hx hkx hp fun _ => rfl
  have hpc : p.toNat + 1 ≤ 0xFFF := by omega
  exact stepRunsDecodedInstruction _ i hpc ((congrArg decodeWord hword).trans h)

end Sys2Proof.Machine
end

section
/-! SUPPORT. The decoder, the encoder and the opcode map say the same (spec/30_encoding.md R70 to R76). -/

namespace Sys2Proof

/-! ## Decode of encode -/

/-- With `op = 0` every `nnn` but the three of HALT, CLS and RET is SYS (30_encoding.md R75 row 4). -/
theorem decodeOp0_wordA {nnn : Addr12} (h : (Instr.sys nnn).wellFormed = true) :
    decodeOp0 (wordA 0x0 nnn) = .ok (.sys nnn) := by
  have hne (w : Word) (hw : nnn ≠ fieldNnn w) : wordA 0x0 nnn ≠ w := fun e => hw (by rw [← e, fieldNnn_wordA])
  simp only [Instr.wellFormed, Bool.and_eq_true, bne_iff_ne] at h
  obtain ⟨⟨hhalt, hcls⟩, hret⟩ := h
  rw [decodeOp0, if_neg (hne 0x0000#16 hhalt), if_neg (hne 0x00E0#16 hcls), if_neg (hne 0x00EE#16 hret), fieldNnn_wordA]

/-- The word of a well-formed instruction decodes to it: `op` chooses the format, and the format's fields are read back. -/
theorem decodeWord_encode {i : Instr} (h : i.wellFormed = true) : decodeWord (encode i) = .ok i := by
  cases i with
  | halt | cls | ret => rfl
  | sys nnn => simpa [decodeWord, encode] using decodeOp0_wordA h
  | jp nnn | call nnn | ldI nnn | jpV0 nnn => simp [decodeWord, encode]
  | seImm x kk | sneImm x kk | ldImm x kk | addImm x kk | rnd x kk => simp [decodeWord, encode]
  | seReg x y | sneReg x y | drw x y n => simp [decodeWord, encode]
  | ldReg x y | or x y | and x y | xor x y | addReg x y | sub x y | shr x y | subn x y | shl x y =>
    simp [decodeWord, encode, decodeOp8]
  | skp x | sknp x => simp [decodeWord, encode, decodeOpE]
  | ldVxDt x | ldVxK x | ldDtVx x | ldStVx x | addI x | ldF x | ldB x | ldMemVx x | ldVxMem x =>
    simp [decodeWord, encode, decodeOpF]

/-- Settles O2: the two bytes make the word again, the word decodes to the instruction, and the rest is not read. -/
theorem decodeOfEncode : Obligations.DecodeOfEncode := by
  intro i rest h
  rw [encodeBytes, bytesOfWord, List.cons_append, List.cons_append, List.nil_append, decode, wordOfBytes_bytes,
    decodeWord_encode h]
  rfl

/-! ## Encode of decode -/

/-- The five sets of illegal words (30_encoding.md R76). -/
abbrev IllegalWord (w : Word) : Prop :=
  (fieldOp w = 0x5 ∧ fieldN w ≠ 0) ∨ (fieldOp w = 0x9 ∧ fieldN w ≠ 0) ∨
  (fieldOp w = 0x8 ∧ (fieldN w).val ∈ [0x8, 0x9, 0xA, 0xB, 0xC, 0xD, 0xF]) ∨
  (fieldOp w = 0xE ∧ (fieldKk w).toNat ∉ [0x9E, 0xA1]) ∨
  (fieldOp w = 0xF ∧ (fieldKk w).toNat ∉ [0x07, 0x0A, 0x15, 0x18, 0x1E, 0x29, 0x33, 0x55, 0x65])

/-- A right answer of a decoder for the word `w`: an instruction whose word is `w`, or the error that names `w` where `w`
is illegal. -/
def AnswersWord (w : Word) : Except DecodeError Instr → Prop
  | .ok i => i.wellFormed = true ∧ encode i = w
  | .error e => e = .unknown w ∧ IllegalWord w

section Answers

variable {w : Word}

theorem wordA_of_op {op : BitVec 4} (hop : fieldOp w = op) : wordA op (fieldNnn w) = w := by
  rw [← hop, wordA_fields]

theorem wordXK_of_op {op : BitVec 4} (hop : fieldOp w = op) : wordXK op (fieldX w) (fieldKk w) = w := by
  rw [← hop, wordXK_fields]

theorem wordXY_of_op {op : BitVec 4} (hop : fieldOp w = op) :
    wordXY op (fieldX w) (fieldY w) (fieldN w) = w := by
  rw [← hop, wordXY_fields]

/-- Format XY: the low nibble is the sub-opcode. -/
theorem wordXY_of_op_sub {op : BitVec 4} {n : Fin 16} (hop : fieldOp w = op) (hn : (fieldN w).val = n.val) :
    wordXY op (fieldX w) (fieldY w) n = w := by
  rw [← Fin.ext hn, wordXY_of_op hop]

/-- Format XS: the low byte is the sub-opcode. -/
theorem wordXK_of_op_sub {op : BitVec 4} {kk : Byte} (hop : fieldOp w = op) (hkk : (fieldKk w).toNat = kk.toNat) :
    wordXK op (fieldX w) kk = w := by
  rw [← BitVec.eq_of_toNat_eq hkk, wordXK_of_op hop]

theorem decodeOp0_answers (hop : fieldOp w = 0x0) : AnswersWord w (decodeOp0 w) := by
  have hw : wordA 0x0 (fieldNnn w) = w := wordA_of_op hop
  unfold decodeOp0
  split_ifs with hhalt hcls hret
  · exact ⟨rfl, hhalt.symm⟩
  · exact ⟨rfl, hcls.symm⟩
  · exact ⟨rfl, hret.symm⟩
  · refine ⟨?_, hw⟩
    have hne {nnn : Addr12} (h : w ≠ wordA 0x0 nnn) : fieldNnn w ≠ nnn := fun e => h (by rw [← e, hw])
    simp only [Instr.wellFormed, Bool.and_eq_true, bne_iff_ne]
    exact ⟨⟨hne hhalt, hne hcls⟩, hne hret⟩

theorem decodeOp8_answers (hop : fieldOp w = 0x8) : AnswersWord w (decodeOp8 w) := by
  unfold decodeOp8
  split
  case h_10 =>
    refine ⟨rfl, .inr (.inr (.inl ⟨hop, ?_⟩))⟩
    simp only [List.mem_cons, List.not_mem_nil, or_false, imp_false] at *
    omega
  all_goals exact ⟨rfl, wordXY_of_op_sub hop ‹_›⟩

theorem decodeOpE_answers (hop : fieldOp w = 0xE) : AnswersWord w (decodeOpE w) := by
  unfold decodeOpE
  split
  case h_3 =>
    refine ⟨rfl, .inr (.inr (.inr (.inl ⟨hop, ?_⟩)))⟩
    simp only [List.mem_cons, List.not_mem_nil, or_false, imp_false] at *
    omega
  all_goals exact ⟨rfl, wordXK_of_op_sub hop ‹_›⟩

theorem decodeOpF_answers (hop : fieldOp w = 0xF) : AnswersWord w (decodeOpF w) := by
  unfold decodeOpF
  split
  case h_10 =>
    refine ⟨rfl, .inr (.inr (.inr (.inr ⟨hop, ?_⟩)))⟩
    simp only [List.mem_cons, List.not_mem_nil, or_false, imp_false] at *
    omega
  all_goals exact ⟨rfl, wordXK_of_op_sub hop ‹_›⟩

/-- The decoder answers every word rightly: `op` chooses the row or the operation of one sub-opcode. -/
theorem decodeWord_answers (w : Word) : AnswersWord w (decodeWord w) := by
  unfold decodeWord
  split
  case h_1 hop => exact decodeOp0_answers (BitVec.eq_of_toNat_eq hop)
  case h_6 hop =>
    have hop : fieldOp w = 0x5 := BitVec.eq_of_toNat_eq hop
    split_ifs with hn
    · exact ⟨rfl, wordXY_of_op_sub hop (congrArg Fin.val hn)⟩
    · exact ⟨rfl, .inl ⟨hop, hn⟩⟩
  case h_9 hop => exact decodeOp8_answers (BitVec.eq_of_toNat_eq hop)
  case h_10 hop =>
    have hop : fieldOp w = 0x9 := BitVec.eq_of_toNat_eq hop
    split_ifs with hn
    · exact ⟨rfl, wordXY_of_op_sub hop (congrArg Fin.val hn)⟩
    · exact ⟨rfl, .inr (.inl ⟨hop, hn⟩)⟩
  case h_14 hop => exact ⟨rfl, wordXY_of_op (BitVec.eq_of_toNat_eq hop)⟩
  case h_15 hop => exact decodeOpE_answers (BitVec.eq_of_toNat_eq hop)
  case h_16 =>
    simp only [imp_false] at *
    have hop : (fieldOp w).toNat = 0xF := by omega
    exact decodeOpF_answers (BitVec.eq_of_toNat_eq hop)
  case h_2 hop | h_3 hop | h_11 hop | h_12 hop => exact ⟨rfl, wordA_of_op (BitVec.eq_of_toNat_eq hop)⟩
  all_goals exact ⟨rfl, wordXK_of_op (BitVec.eq_of_toNat_eq ‹_›)⟩

end Answers

/-- Settles O3: the decoder's answers are right, and this one is an instruction. -/
theorem encodeOfDecode : Obligations.EncodeOfDecode := by
  intro w i h
  have hw := decodeWord_answers w
  rw [h] at hw
  exact hw

theorem decodeWord_error {w : Word} {e : DecodeError} (h : decodeWord w = .error e) :
    e = .unknown w ∧ IllegalWord w := by
  have hw := decodeWord_answers w
  rw [h] at hw
  exact hw

/-! ## The opcode map -/

/-- The word of an instruction fits the instruction's own row. -/
theorem rowBits (i : Instr) : Laws.RowBits.Statement i := by
  cases i with
  | halt | cls | ret => exact Laws.rowBits_of_mask rfl rfl
  | sys nnn | jp nnn | call nnn | ldI nnn | jpV0 nnn => exact Laws.rowBits_of_mask rfl (Laws.wordA_mask _ nnn)
  | seImm x kk | sneImm x kk | ldImm x kk | addImm x kk | rnd x kk =>
    exact Laws.rowBits_of_mask rfl (Laws.wordXK_mask _ x kk)
  | skp x | sknp x | ldVxDt x | ldVxK x | ldDtVx x | ldStVx x | addI x | ldF x | ldB x | ldMemVx x | ldVxMem x =>
    exact Laws.rowBits_of_mask rfl (Laws.wordXS_mask _ x _)
  | seReg x y | ldReg x y | or x y | and x y | xor x y | addReg x y | sub x y | shr x y | subn x y | shl x y
  | sneReg x y => exact Laws.rowBits_of_mask rfl (Laws.wordXY_mask _ x y _)
  | drw x y n => exact Laws.rowBits_of_mask rfl (Laws.wordXYN_mask _ x y n)

/-- What the rows of 30_encoding.md R75 have in common: every mask reads `op`, and the whole of the sub-opcode where the
pattern's `op` has illegal ones; and no pattern is itself an illegal word. -/
theorem opcodeMap_reads_sub : ∀ r ∈ opcodeMap, fieldOp r.mask = BitVec.allOnes 4 ∧
    (fieldOp r.pattern ∈ [0x5#4, 0x8#4, 0x9#4] → nibble (fieldN r.mask) = BitVec.allOnes 4) ∧
    (fieldOp r.pattern ∈ [0xE#4, 0xF#4] → fieldKk r.mask = BitVec.allOnes 8) ∧ ¬ IllegalWord r.pattern := by
  decide

/-- Of two rows that one word can fit, the later is SYS and the earlier is a fixed word: HALT, CLS or RET. -/
theorem opcodeMap_overlap : opcodeMap.Pairwise fun r q => r.pattern &&& q.mask = q.pattern &&& r.mask →
    q.mnemonic = "SYS" ∧ r.mask = BitVec.allOnes 16 ∧ r.pattern ∈ [0x0000#16, 0x00E0#16, 0x00EE#16] := by
  decide


theorem OpcodeRow.fits_iff (r : OpcodeRow) (w : Word) : r.fits w = true ↔ w &&& r.mask = r.pattern := beq_iff_eq

section Fits

variable {r : OpcodeRow} {w : Word}

/-- Where the mask has the whole of a field, a word that fits the row has the pattern's field. -/
theorem OpcodeRow.extract_of_fits (hw : r.fits w = true) {lo len : Nat}
    (hmask : r.mask.extractLsb' lo len = BitVec.allOnes len) :
    w.extractLsb' lo len = r.pattern.extractLsb' lo len := by
  rw [← (r.fits_iff w).1 hw, BitVec.extractLsb'_and, hmask, BitVec.and_allOnes]

/-- A word that fits a row of the map is legal: `op` and the sub-opcode are the pattern's, and the pattern is legal. -/
theorem not_illegalWord_of_fits (hr : r ∈ opcodeMap) (hw : r.fits w = true) : ¬ IllegalWord w := by
  obtain ⟨hopMask, hnMask, hkkMask, hlegal⟩ := opcodeMap_reads_sub r hr
  have hop : fieldOp w = fieldOp r.pattern := r.extract_of_fits hw hopMask
  have hn (h : fieldOp r.pattern ∈ [0x5#4, 0x8#4, 0x9#4]) : fieldN w = fieldN r.pattern :=
    congrArg BitVec.toFin (r.extract_of_fits hw (hnMask h))
  have hkk (h : fieldOp r.pattern ∈ [0xE#4, 0xF#4]) : fieldKk w = fieldKk r.pattern := r.extract_of_fits hw (hkkMask h)
  rintro (⟨h, hsub⟩ | ⟨h, hsub⟩ | ⟨h, hsub⟩ | ⟨h, hsub⟩ | ⟨h, hsub⟩) <;> rw [hop] at h
  · exact hlegal (.inl ⟨h, hn (by simp [h]) ▸ hsub⟩)
  · exact hlegal (.inr (.inl ⟨h, hn (by simp [h]) ▸ hsub⟩))
  · exact hlegal (.inr (.inr (.inl ⟨h, hn (by simp [h]) ▸ hsub⟩)))
  · exact hlegal (.inr (.inr (.inr (.inl ⟨h, hkk (by simp [h]) ▸ hsub⟩))))
  · exact hlegal (.inr (.inr (.inr (.inr ⟨h, hkk (by simp [h]) ▸ hsub⟩))))

end Fits

/-- A word that decodes fits the row of its instruction. -/
theorem row_fits_of_decodeWord {w : Word} {i : Instr} (h : decodeWord w = .ok i) :
    (opcodeMap[i.rowNumber]?).map (fun r => r.fits w) = some true := by
  obtain ⟨-, rfl⟩ := encodeOfDecode w i h
  exact rowBits i

theorem exists_row_of_decodeWord {w : Word} {i : Instr} (h : decodeWord w = .ok i) :
    ∃ r ∈ opcodeMap, r.fits w = true := by
  obtain ⟨r, hr, hw⟩ := Option.map_eq_some_iff.1 (row_fits_of_decodeWord h)
  exact ⟨r, List.mem_of_getElem? hr, hw⟩

/-- Settles O4: an instruction's word fits the instruction's row; a word that does not decode is illegal and fits none. -/
theorem decoderAgreesWithOpcodeMap : Obligations.DecoderAgreesWithOpcodeMap := by
  refine ⟨fun w i => row_fits_of_decodeWord, fun w => ⟨fun ⟨i, h⟩ => exists_row_of_decodeWord h, ?_⟩⟩
  rintro ⟨r, hr, hw⟩
  cases h : decodeWord w with
  | ok i => exact ⟨i, rfl⟩
  | error e => exact absurd (decodeWord_error h).2 (not_illegalWord_of_fits hr hw)

/-- Settles O5: a word that fits two rows makes their patterns agree under both masks, which only SYS and the three fixed
words do. -/
theorem rowsOverlapOnlyInSys : Obligations.RowsOverlapOnlyInSys := by
  intro w j k r q hjk hr hq hwr hwq
  rw [OpcodeRow.fits_iff] at hwr hwq
  have hagree : r.pattern &&& q.mask = q.pattern &&& r.mask := by
    rw [← hwr, ← hwq, BitVec.and_assoc, BitVec.and_assoc, BitVec.and_comm r.mask]
  obtain ⟨hj, rfl⟩ := List.getElem?_eq_some_iff.1 hr
  obtain ⟨hk, rfl⟩ := List.getElem?_eq_some_iff.1 hq
  obtain ⟨hsys, hmask, hfixed⟩ := List.pairwise_iff_getElem.1 opcodeMap_overlap j k hj hk hjk hagree
  rw [hmask, BitVec.and_allOnes] at hwr
  rw [← hwr] at hfixed
  exact ⟨hsys, by simpa using hfixed⟩

/-- Settles O6: the decoder's error names an illegal word, and an illegal word fits no row, so it does not decode. -/
theorem illegalWordsAreTheFiveSets : Obligations.IllegalWordsAreTheFiveSets := by
  intro w
  refine ⟨fun h => (decodeWord_error h).2, fun hill => ?_⟩
  cases h : decodeWord w with
  | ok i =>
    obtain ⟨r, hr, hw⟩ := exists_row_of_decodeWord h
    exact absurd hill (not_illegalWord_of_fits hr hw)
  | error e => rw [(decodeWord_error h).1]

/-- Settles O1: each word of the table, decoded. -/
theorem specWordsDecode : Obligations.SpecWordsDecode := by
  unfold Obligations.SpecWordsDecode
  decide

end Sys2Proof
end

section
/-! SUPPORT. What a cycle answers when it does not complete an instruction (spec/30_encoding.md R81). -/

namespace Sys2Proof.Machine

theorem guardData_ne_refused (highest : Nat) (t : State) (r : Refusal) : guardData highest (.next t) ≠ .refused r := by
  unfold guardData
  split_ifs <;> nofun

/-- Every instruction completes or ends with an error: eight meanings are guarded by a check whose failure is an error. -/
theorem exec_ne_refused (i : Instr) (s : State) (r : Refusal) : exec i s ≠ .refused r := by
  cases i with
  | drw | ldB | ldMemVx | ldVxMem => exact guardData_ne_refused _ _ r
  | ret | call | skp | sknp | ldVxK =>
    simp only [exec, execRet, execCall, execSkp, execSknp, execLdVxK]
    split <;> nofun
  | _ => nofun

/-- Settles O10: a step is the two errors of the fetch or an instruction. -/
theorem nothingIsRefused : Obligations.NothingIsRefused := by
  refine ⟨exec_ne_refused, fun s r => ?_⟩
  obtain ⟨-, h⟩ | ⟨-, ⟨i, -, h⟩ | ⟨e, -, h⟩⟩ := step_cases s
  · rw [h]; nofun
  · rw [h]; exact exec_ne_refused i s r
  · rw [h]; nofun

/-- Settles O8: the cases of a step, told by `pc` and the word at `pc`. -/
theorem stepErrorsInOrder : Obligations.StepErrorsInOrder := by
  intro s
  rw [State.wordAtPc, ← wordOfBytes_eq_shift_or]
  obtain ⟨hpc, h⟩ | ⟨hpc, ⟨i, hi, -⟩ | ⟨e, -, h⟩⟩ := step_cases s
  · exact ⟨fun _ => h, fun hlow => absurd hpc (by omega)⟩
  · exact ⟨fun hhigh => absurd hpc (by omega), fun _ hnone => absurd hi (hnone i)⟩
  · exact ⟨fun hhigh => absurd hpc (by omega), fun _ _ => h⟩

end Sys2Proof.Machine
end

section
/-! SUPPORT. HALT, the jumps and the call stack, each instruction's result from its case lemmas
(spec/40_control_transfer.md R100 to R105). -/

namespace Sys2Proof.Machine

variable {s t : State}

/-! ## HALT (40_control_transfer.md R100) -/

/-- A cycle that finds the halt sentinel stalls. -/
theorem step_of_wordAtPc_eq_zero (hpc : s.pc.toNat + 1 ≤ 0xFFF) (hword : s.wordAtPc = 0x0000#16) :
    step s = .next s :=
  stepRunsDecodedInstruction s .halt hpc (congrArg decodeWord hword)

/-- Settles O13: `set_key` and `tick_timers` change neither `pc` nor the word at `pc`, so each cycle stalls again. -/
theorem haltChangesNothing : Obligations.HaltChangesNothing := by
  refine ⟨rfl, fun _ => rfl, fun s hpc hword => ⟨step_of_wordAtPc_eq_zero hpc hword, fun k b => ?_, ?_⟩⟩
  · exact step_of_wordAtPc_eq_zero (s := setKey k b s) hpc hword
  · exact step_of_wordAtPc_eq_zero (s := tickTimers s) hpc hword

/-! ## RET and CALL (40_control_transfer.md R101, R104) -/

/-- Settles O15: the popped entry is the one below `sp`. -/
theorem retResult : Obligations.RetResult := by
  refine ⟨rfl, fun s => ⟨execRet_of_empty, fun k hk => ?_⟩⟩
  have hret := execRet_of_pos (s := s) (by omega)
  exact ⟨_, hret, by simp [hk], by simp [hk], exec_frame (i := .ret) hret⟩

/-- Settles O17: the entry at the old `sp` is the only one written. -/
theorem callResult : Obligations.CallResult := by
  refine ⟨fun nnn => decodeWord_encode (i := .call nnn) rfl, fun s nnn => ⟨execCall_of_full, fun k hk => ?_⟩⟩
  have hsp : s.sp.val < 16 := by omega
  have hcall := execCall_of_lt (nnn := nnn) hsp
  refine ⟨_, hcall, by simp [hk], by simp [hk], fun j hj => ?_, zextAddr_toNat nnn, exec_frame (i := .call nnn) hcall⟩
  exact Vector.getElem_set_ne hsp j.isLt fun e => hj (Fin.ext (e.symm.trans hk))

/-- A part listed first in a frame that is as before can be left out of it. -/
theorem UnchangedBut.of_same {f : Field} {fs : List Field} (h : UnchangedBut (f :: fs) s t) (hf : Same f s t) :
    UnchangedBut fs s t := by
  intro g hg
  by_cases hgf : g = f
  · exact hgf ▸ hf
  · exact h g (List.not_mem_cons_of_ne_of_not_mem hgf hg)

/-- Settles O19: the result of CALL is a state with an entry in use, and the result of RET from there reads that entry. -/
theorem callThenRetReturns : Obligations.CallThenRetReturns := by
  intro s nnn hsp
  obtain ⟨t, hcall, htsp, htop, hrest, -, hframe⟩ := (callResult.2 s nnn).2 ⟨s.sp.val, hsp⟩ rfl
  obtain ⟨u, hret, husp, hupc, hframe'⟩ := (retResult.2 t).2 ⟨s.sp.val, hsp⟩ htsp
  have hsame : u.sp = s.sp := Fin.ext husp
  have hboth : UnchangedBut [.sp, .stack, .pc] s u := hframe.trans (hframe'.mono (by simp))
  refine ⟨t, u, hcall, hret, hupc.trans htop, hsame, fun k => ?_, hboth.of_same hsame⟩
  rw [show u.stack[k] = t.stack[k] from hframe' .stack (by decide) k]
  split_ifs with hk
  · obtain rfl : k = ⟨s.sp.val, hsp⟩ := Fin.ext hk
    exact htop
  · exact hrest k fun e => hk (congrArg Fin.val e)

/-! ## SYS, JP, JP_V0 (40_control_transfer.md R102, R103, R105) -/

/-- Settles O16: both are a plain jump to `nnn` widened to 16 bits. -/
theorem sysJpResult : Obligations.SysJpResult := by
  refine ⟨fun nnn hhalt hcls hret => ?_, fun nnn => decodeWord_encode (i := .jp nnn) rfl, fun s nnn _ _ _ => ?_,
    fun s nnn => ?_⟩
  · have hwf : (Instr.sys nnn).wellFormed = true := by
      simp only [Instr.wellFormed, Bool.and_eq_true, bne_iff_ne]
      exact ⟨⟨hhalt, hcls⟩, hret⟩
    exact decodeWord_encode (i := .sys nnn) hwf
  · exact ⟨_, rfl, zextAddr_toNat nnn, s.setPc_frame _⟩
  · exact ⟨_, rfl, zextAddr_toNat nnn, s.setPc_frame _⟩

/-- The sum of `Bnnn` does not wrap (40_control_transfer.md R105). -/
theorem State.jumpSum_toNat (s : State) (nnn : Addr12) : (s.jumpSum nnn).toNat = nnn.toNat + (s.reg 0).toNat := by
  rw [State.jumpSum, BitVec.toNat_add, zextAddr_toNat, zext16_toNat]; omega

/-- Settles O18: the sum is exact, and the next fetch alone checks it. -/
theorem jpV0Result : Obligations.JpV0Result := by
  refine ⟨fun nnn => decodeWord_encode (i := .jpV0 nnn) rfl, fun s nnn => ?_⟩
  exact ⟨_, rfl, s.jumpSum_toNat nnn, s.jumpSum_le nnn, s.setPc_frame _, (stepErrorsInOrder _).1⟩

end Sys2Proof.Machine
end

section
/-! SUPPORT. The skips on a comparison of registers and immediates, by the one skip convention
(spec/41_skip.md R110 to R114). -/

namespace Sys2Proof.Machine

/-- The skip convention: an instruction that completes with `skipIf` on the truth of `p` advances `pc` by 4 when `p`
holds, else by 2, and changes nothing else (41_skip.md R114). -/
theorem exec_of_skipIf {i : Instr} {s : State} {taken : Bool} {p : Prop} [Decidable p]
    (h : exec i s = .next (s.skipIf taken)) (htaken : taken = true ↔ p) :
    ∃ t, exec i s = .next t ∧ t.pc = (if p then s.pc + 4 else s.pc + 2) ∧ UnchangedBut [.pc] s t :=
  ⟨_, h, by simp [htaken], s.skipIf_frame taken⟩

/-- Settles O20: both complete by the skip convention, with the comparison of `V[x]` with `kk` and its negation. -/
theorem skipImmediateResult : Obligations.SkipImmediateResult := by
  refine fun x kk => ⟨decodeWord_encode (i := .seImm x kk) rfl, decodeWord_encode (i := .sneImm x kk) rfl,
    fun s => ⟨?_, ?_⟩⟩
  · exact exec_of_skipIf rfl beq_iff_eq
  · exact exec_of_skipIf rfl bne_iff_ne

/-- Settles O21: both complete by the skip convention, and a word with another low nibble is in the first or second of
the five sets of illegal words (30_encoding.md R76). -/
theorem skipRegisterResult : Obligations.SkipRegisterResult := by
  refine fun x y => ⟨decodeWord_encode (i := .seReg x y) rfl, decodeWord_encode (i := .sneReg x y) rfl,
    fun n hn => ?_, fun s => ⟨?_, ?_⟩⟩
  · have hsub (op : BitVec 4) : fieldN (wordXY op x y n) ≠ 0 := by rwa [fieldN_wordXY]
    exact ⟨(illegalWordsAreTheFiveSets _).2 (.inl ⟨fieldOp_wordXY .., hsub _⟩),
      (illegalWordsAreTheFiveSets _).2 (.inr (.inl ⟨fieldOp_wordXY .., hsub _⟩))⟩
  · exact exec_of_skipIf rfl beq_iff_eq
  · exact exec_of_skipIf rfl bne_iff_ne

end Sys2Proof.Machine
end

section
/-! SUPPORT. Loads and sums of an immediate, and the masked random byte (spec/42_immediate_random.md R120 to R122). -/

namespace Sys2Proof.Machine

/-- A register written before `pc` advances: that register holds the new value, every other its old one. -/
theorem State.reg_setReg_advance (s : State) (x j : RegIdx) (v : Byte) :
    (s.setReg x v).advance.reg j = if j = x then v else s.reg j := by
  rw [State.reg_congr (State.advance_V _), State.reg_setReg]

/-- An instruction that completes with one register written and `pc` advanced changes nothing else
(10_state.md R37). -/
theorem exec_of_setReg {i : Instr} {s : State} {x : RegIdx} {v : Byte}
    (h : exec i s = .next (s.setReg x v).advance) :
    ∃ t, exec i s = .next t ∧ (∀ j, t.reg j = if j = x then v else s.reg j) ∧ t.pc = s.pc + 2 ∧
      UnchangedBut [.V, .pc] s t :=
  ⟨_, h, fun j => s.reg_setReg_advance x j v, rfl, (s.setReg_frame x v).thenAdvance⟩

/-- Settles O22: both complete with `V[x]` written, the load with `kk` and the sum with `V[x] + kk`; the sum of `0`
from the result of the load reads the loaded value. -/
theorem immediateResult : Obligations.ImmediateResult := by
  refine fun x kk => ⟨decodeWord_encode (i := .ldImm x kk) rfl, decodeWord_encode (i := .addImm x kk) rfl,
    fun s => ⟨?_, ?_⟩⟩
  · obtain ⟨t, hload, hreg, hpc, hframe⟩ := exec_of_setReg (i := .ldImm x kk) (s := s) rfl
    obtain ⟨u, hadd, hsum, -, -⟩ := exec_of_setReg (i := .addImm x 0x00) (s := t) rfl
    exact ⟨t, hload, hreg, hpc, hframe, u, hadd, by simp [hsum, hreg]⟩
  · obtain ⟨t, hadd, hreg, hpc, hframe⟩ := exec_of_setReg (i := .addImm x kk) (s := s) rfl
    refine ⟨t, hadd, ?_, fun j hj => ?_, hpc, hframe⟩
    · rw [hreg, if_pos rfl, BitVec.toNat_add]
    · rw [hreg, if_neg hj]

/-- Settles O23: the sample is taken first, then its masked value is written, which has no bit outside `kk`. -/
theorem rndResult : Obligations.RndResult := by
  refine fun x kk => ⟨decodeWord_encode (i := .rnd x kk) rfl, fun s => ?_⟩
  have hexec : exec (.rnd x kk) s = .next (s.sample.2.setReg x (Config.rnd s.draws &&& kk)).advance := rfl
  have hreg (j : RegIdx) := s.sample.2.reg_setReg_advance x j (Config.rnd s.draws &&& kk)
  refine ⟨_, hexec, fun j => ?_, ?_, rfl, rfl, exec_frame hexec⟩
  · rw [hreg, State.reg_congr s.sample_V]
  · rw [hreg, if_pos rfl, BitVec.and_assoc, BitVec.and_not_self]
    exact BitVec.and_zero

end Sys2Proof.Machine
end

section
/-! SUPPORT. The nine register-register operations: four write a result alone, five a result and then a flag
(spec/43_alu.md R130 to R139). -/

namespace Sys2Proof.Machine

/-! ## Results without a flag (43_alu.md R131 to R134) -/

/-- Settles O24: all four complete with `V[x]` alone written. -/
theorem logicResult : Obligations.LogicResult := by
  refine fun x y => ⟨decodeWord_encode (i := .ldReg x y) rfl, decodeWord_encode (i := .or x y) rfl,
    decodeWord_encode (i := .and x y) rfl, decodeWord_encode (i := .xor x y) rfl, fun s => ⟨?_, ?_, ?_, ?_⟩⟩
  · exact exec_of_setReg (i := .ldReg x y) rfl
  · exact exec_of_setReg (i := .or x y) rfl
  · exact exec_of_setReg (i := .and x y) rfl
  · exact exec_of_setReg (i := .xor x y) rfl

/-! ## Results and flags as numbers (43_alu.md R135 to R139) -/

/-- The flag of a comparison, in the form the rules of sums and differences give it. -/
theorem flagByte_decide (p : Prop) [Decidable p] : flagByte (decide p) = if p then 0x01 else 0x00 := by
  simp [flagByte]

/-- The flag of a shift is the bit shifted out, as a number. -/
theorem flagByte_toNat (b : Bool) : (flagByte b).toNat = b.toNat := by
  cases b <;> rfl

theorem addCarry_fst_toNat (a b : Byte) : (addCarry a b).1.toNat = (a.toNat + b.toNat) % 256 :=
  BitVec.toNat_ofNat (a.toNat + b.toNat) 8

theorem subNotBorrow_fst_toNat (a b : Byte) :
    ((subNotBorrow a b).1.toNat : Int) = ((a.toNat : Int) - b.toNat) % 256 := by
  rw [subNotBorrow, BitVec.toNat_sub]; omega

theorem shiftRightOut_fst_toNat (a : Byte) : (shiftRightOut a).1.toNat = a.toNat / 2 := by
  rw [shiftRightOut, BitVec.toNat_ushiftRight, Nat.shiftRight_one]

theorem shiftRightOut_snd_toNat (a : Byte) : (shiftRightOut a).2.toNat = a.toNat % 2 := by
  rw [shiftRightOut, BitVec.getLsbD, Nat.toNat_testBit, Nat.pow_zero, Nat.div_one]

theorem shiftLeftOut_fst_toNat (a : Byte) : (shiftLeftOut a).1.toNat = a.toNat * 2 % 256 := by
  rw [shiftLeftOut, BitVec.toNat_shiftLeft, Nat.shiftLeft_eq, Nat.pow_one]

/-- Bit 7 is the whole quotient by 128, since a byte is below 256. -/
theorem shiftLeftOut_snd_toNat (a : Byte) : (shiftLeftOut a).2.toNat = a.toNat / 128 := by
  rw [shiftLeftOut, BitVec.getLsbD, Nat.toNat_testBit]; omega

/-! ## Results with a flag (43_alu.md R130 (b)) -/

/-- An instruction that completes with a result and a flag written leaves the flag in VF, which wins when `x = 15`,
and the result in any other `V[x]`; it changes nothing else but `pc`. -/
theorem exec_of_writeWithFlag {i : Instr} {s : State} {x : RegIdx} {r : Byte × Bool}
    (h : exec i s = .next (s.writeWithFlag x r)) :
    ∃ t, exec i s = .next t ∧ (x ≠ 15 → t.reg x = r.1) ∧ t.reg 15 = flagByte r.2 ∧
      (∀ j, j ≠ x → j ≠ 15 → t.reg j = s.reg j) ∧ t.pc = s.pc + 2 ∧ UnchangedBut [.V, .pc] s t := by
  refine ⟨_, h, fun hx => ?_, ?_, fun j hjx hj => ?_, rfl, s.writeWithFlag_frame x r⟩
  · rw [State.reg_writeWithFlag, if_neg hx, if_pos rfl]
  · rw [State.reg_writeWithFlag, if_pos rfl]
  · rw [State.reg_writeWithFlag, if_neg hj, if_neg hjx]

/-- SUB and SUBN are one rule with the operands exchanged: the difference mod 256, then not-borrow
(43_alu.md R136, R138). -/
theorem exec_of_subNotBorrow {i : Instr} {s : State} {x : RegIdx} {a b : Byte}
    (h : exec i s = .next (s.writeWithFlag x (subNotBorrow a b))) :
    ∃ t, exec i s = .next t ∧ (x ≠ 15 → ((t.reg x).toNat : Int) = ((a.toNat : Int) - b.toNat) % 256) ∧
      t.reg 15 = (if b.toNat ≤ a.toNat then 0x01 else 0x00) ∧
      (∀ j, j ≠ x → j ≠ 15 → t.reg j = s.reg j) ∧ t.pc = s.pc + 2 ∧ UnchangedBut [.V, .pc] s t := by
  obtain ⟨t, hexec, hresult, hflag, hrest⟩ := exec_of_writeWithFlag h
  refine ⟨t, hexec, fun hx => ?_, hflag.trans (flagByte_decide _), hrest⟩
  rw [hresult hx, subNotBorrow_fst_toNat]

/-- Settles O25: the result and the flag are those of the exact sum of the old registers. -/
theorem addRegResult : Obligations.AddRegResult := by
  refine fun x y => ⟨decodeWord_encode (i := .addReg x y) rfl, fun s => ?_⟩
  obtain ⟨t, hexec, hresult, hflag, hrest⟩ := exec_of_writeWithFlag (i := .addReg x y) (s := s) rfl
  refine ⟨t, hexec, fun hx => ?_, hflag.trans (flagByte_decide _), hrest⟩
  rw [hresult hx, addCarry_fst_toNat]

/-- Settles O26: `V[x] - V[y]` by the rule of differences. -/
theorem subResult : Obligations.SubResult :=
  fun x y => ⟨decodeWord_encode (i := .sub x y) rfl, fun _ => exec_of_subNotBorrow (i := .sub x y) rfl⟩

/-- Settles O27: SUBN is `V[y] - V[x]` by the rule of differences, and the flag of a shift is the bit shifted out. -/
theorem subnShiftResult : Obligations.SubnShiftResult := by
  refine fun x y => ⟨decodeWord_encode (i := .subn x y) rfl, decodeWord_encode (i := .shr x y) rfl,
    decodeWord_encode (i := .shl x y) rfl, fun s => ⟨exec_of_subNotBorrow (i := .subn x y) rfl, ?_, ?_⟩⟩
  · obtain ⟨t, hexec, hresult, hflag, hrest⟩ := exec_of_writeWithFlag (i := .shr x y) (s := s) rfl
    refine ⟨t, hexec, fun hx => ?_, ?_, hrest⟩
    · rw [hresult hx, shiftRightOut_fst_toNat]
    · rw [hflag, flagByte_toNat, shiftRightOut_snd_toNat]
  · obtain ⟨t, hexec, hresult, hflag, hrest⟩ := exec_of_writeWithFlag (i := .shl x y) (s := s) rfl
    refine ⟨t, hexec, fun hx => ?_, ?_, hrest⟩
    · rw [hresult hx, shiftLeftOut_fst_toNat]
    · rw [hflag, flagByte_toNat, shiftLeftOut_snd_toNat]

end Sys2Proof.Machine
end

section
/-! SUPPORT. The index register written alone, and the bytes stored and loaded at `I`
(spec/44_index_memory.md R150 to R155). -/

namespace Sys2Proof.Machine

/-! ## The index register (44_index_memory.md R150 to R152) -/

theorem State.indexSum_toNat (s : State) (x : RegIdx) :
    (s.indexSum x).toNat = (s.I.toNat + (s.reg x).toNat) % 65536 := by
  rw [State.indexSum, BitVec.toNat_add, zext16_toNat]

theorem State.glyphAddr_toNat (s : State) (x : RegIdx) :
    (s.glyphAddr x).toNat = (s.cfg.fx29Base.toNat + 5 * (s.reg x).toNat) % 65536 := by
  rw [State.glyphAddr, BitVec.toNat_add, BitVec.toNat_mul, zext16_toNat]
  exact Nat.add_mod_mod _ _ 65536

/-- An instruction that completes with `I` written and `pc` advanced changes nothing else (10_state.md R37). -/
theorem exec_of_setI {i : Instr} {s : State} {v : Word} (h : exec i s = .next (s.setI v).advance) :
    ∃ t, exec i s = .next t ∧ t.I = v ∧ t.pc = s.pc + 2 ∧ UnchangedBut [.I, .pc] s t :=
  ⟨_, h, rfl, rfl, (s.setI_frame v).thenAdvance⟩

/-- Settles O28: both complete with `I` alone written, the load with `nnn` and the sum with `I + V[x]`. -/
theorem indexResult : Obligations.IndexResult := by
  refine ⟨fun nnn => decodeWord_encode (i := .ldI nnn) rfl, fun x => decodeWord_encode (i := .addI x) rfl,
    fun s nnn => ?_, fun s x => ?_⟩
  · obtain ⟨t, hexec, hI, hrest⟩ := exec_of_setI (i := .ldI nnn) (s := s) rfl
    exact ⟨t, hexec, hI ▸ zextAddr_toNat nnn, hrest⟩
  · obtain ⟨t, hexec, hI, hrest⟩ := exec_of_setI (i := .addI x) (s := s) rfl
    exact ⟨t, hexec, hI ▸ s.indexSum_toNat x, hrest⟩

/-- Settles O29: `I` alone is written, with the sum of the base in the state's configuration, whatever it is. -/
theorem ldFResult : Obligations.LdFResult := by
  refine fun x => ⟨decodeWord_encode (i := .ldF x) rfl, fun s => ?_⟩
  obtain ⟨t, hexec, hI, hrest⟩ := exec_of_setI (i := .ldF x) (s := s) rfl
  exact ⟨t, hexec, hI ▸ s.glyphAddr_toNat x, hrest⟩

/-! ## Bytes stored at `I` (44_index_memory.md R153, R154) -/

/-- Bytes written before `pc` advances: inside the space they read back, every other byte is as before. -/
theorem State.byteAt_writeBytes_advance (s : State) (a b : Nat) (vs : List Byte) :
    (s.writeBytes a vs).advance.byteAt b
      = if a ≤ b ∧ b < a + vs.length ∧ b ≤ 0xFFF then vs.getD (b - a) 0 else s.byteAt b := by
  rw [State.byteAt_congr (State.advance_mem _) (State.advance_cfg _), State.byteAt_writeBytes]

/-- An instruction that stores `n + 1` bytes at `I`, guarded by the last address, is out of bounds or leaves those bytes
at `I` to `I + n` and every other byte as before; it changes nothing else but `pc` (20_memory.md R53, R55). -/
theorem exec_of_store {i : Instr} {s : State} {n : Nat} {bytes : List Byte} (hlen : bytes.length = n + 1)
    (h : exec i s = guardData (s.effAddr n) (.next (s.writeBytes (s.effAddr 0) bytes).advance)) :
    (0xFFF < s.effAddr n → exec i s = .fault (.outOfBounds .data)) ∧
    (s.effAddr n ≤ 0xFFF → ∃ t, exec i s = .next t ∧
      (∀ k ≤ n, t.byteAt (s.effAddr 0 + k) = bytes.getD k 0) ∧
      (∀ a : Nat, a < s.effAddr 0 ∨ s.effAddr n < a → t.byteAt a = s.byteAt a) ∧
      t.pc = s.pc + 2 ∧ UnchangedBut [.mem, .pc] s t) := by
  refine ⟨fun hpast => h.trans (guardData_of_lt hpast), fun hin => ?_⟩
  have hlast : s.effAddr n = s.effAddr 0 + n := rfl
  refine ⟨_, h.trans (guardData_of_le hin), fun k hk => ?_, fun a ha => ?_, rfl,
    (s.writeBytes_frame _ bytes).thenAdvance⟩
  · rw [State.byteAt_writeBytes_advance, if_pos (by omega), Nat.add_sub_cancel_left]
  · rw [State.byteAt_writeBytes_advance, if_neg (by omega)]

/-- A number below 256 is the value of its byte. -/
theorem byte_toNat_of_lt {n : Nat} (h : n < 256) : (BitVec.ofNat 8 n).toNat = n := by
  rw [BitVec.toNat_ofNat, Nat.mod_eq_of_lt h]

/-- Settles O30: the three digits are the bytes stored, and each is below 256. -/
theorem ldBResult : Obligations.LdBResult := by
  refine fun x => ⟨decodeWord_encode (i := .ldB x) rfl, fun s => ⟨rfl, rfl, ?_⟩⟩
  obtain ⟨hpast, hin⟩ := exec_of_store (i := .ldB x) (s := s) (n := 2) rfl rfl
  refine ⟨hpast, fun hle => ?_⟩
  obtain ⟨t, hexec, hstored, hrest⟩ := hin hle
  refine ⟨t, hexec, ?_, ?_, ?_, hrest⟩
  · exact (congrArg BitVec.toNat (hstored 0 (by omega))).trans (byte_toNat_of_lt (by omega))
  · exact (congrArg BitVec.toNat (hstored 1 (by omega))).trans (byte_toNat_of_lt (by omega))
  · exact (congrArg BitVec.toNat (hstored 2 (by omega))).trans (byte_toNat_of_lt (by omega))

/-- Settles O31: the bytes stored are the registers up to `x`, in order. -/
theorem ldMemVxResult : Obligations.LdMemVxResult := by
  refine fun x => ⟨decodeWord_encode (i := .ldMemVx x) rfl, fun s => ⟨rfl, rfl, ?_⟩⟩
  obtain ⟨hpast, hin⟩ := exec_of_store (i := .ldMemVx x) (s.regsUpTo_length x) rfl
  refine ⟨hpast, fun hle => ?_⟩
  obtain ⟨t, hexec, hstored, hrest⟩ := hin hle
  refine ⟨t, hexec, fun k hk => ?_, hrest⟩
  rw [hstored k.val hk, List.getD_eq_getElem?_getD, s.regsUpTo_getElem? x k.val hk, Option.getD_some]

/-! ## Registers loaded from `I` (44_index_memory.md R155) -/

/-- `n` bytes of memory loaded into the registers: `V[k]` is the byte at `a + k` for `k` below `n`, the other registers
keep their values. -/
theorem State.reg_loadRegs_readBytes (s : State) (a n : Nat) (k : RegIdx) :
    (s.loadRegs (s.readBytes a n)).reg k = if k.val < n then s.byteAt (a + k.val) else s.reg k := by
  rw [State.reg_loadRegs, State.readBytes_getElem?]
  split_ifs
  · exact Option.getD_some
  · exact Option.getD_none

/-- Settles O32: when the check passes, the registers up to `x` are loaded from the bytes at `I`. -/
theorem ldVxMemResult : Obligations.LdVxMemResult := by
  refine fun x => ⟨decodeWord_encode (i := .ldVxMem x) rfl, fun s => ⟨guardData_of_lt, fun hle => ?_⟩⟩
  refine ⟨_, guardData_of_le hle, fun k => ?_, rfl, (s.loadRegs_frame _).thenAdvance⟩
  have hbelow : k.val < x.val + 1 ↔ k ≤ x := Nat.lt_succ_iff
  simp only [State.reg_congr (State.advance_V _), State.reg_loadRegs_readBytes, hbelow]
  rfl

end Sys2Proof.Machine
end

section
/-! SUPPORT. DRW without its loop: where a sprite's 1 bits land and whether one lands on a lit pixel
(spec/45_display.md R170 to R173). -/

namespace Sys2Proof.Machine

/-! ## Where the 1 bits of a sprite land (45_display.md R172) -/

/-- A 1 bit of one sprite row, drawn from column `vx` in row `py`, lands on pixel `(qx, qy)`. -/
def rowHits (vx py : Nat) (byte : Byte) (qx qy : Nat) : Bool :=
  (List.range 8).any fun bit =>
    byte.getLsbD (7 - bit) && decide ((vx + bit) % 64 = qx % 64) && decide (py % 32 = qy % 32)

/-- A 1 bit of some sprite row lands on pixel `(qx, qy)`: the `S[k]` of 45_display.md R172. -/
def spriteHits (vx vy : Nat) (rows : List Byte) (qx qy : Nat) : Bool :=
  (rows.zipIdx vy).any fun r => rowHits vx r.2 r.1 qx qy

theorem rowHits_iff {vx py qx qy : Nat} {byte : Byte} :
    rowHits vx py byte qx qy = true ↔
      ∃ bit < 8, byte.getLsbD (7 - bit) = true ∧ (vx + bit) % 64 = qx % 64 ∧ py % 32 = qy % 32 := by
  simp [rowHits, and_assoc]

@[simp] theorem spriteHits_nil (vx vy qx qy : Nat) : spriteHits vx vy [] qx qy = false := rfl

@[simp] theorem spriteHits_cons (vx vy : Nat) (byte : Byte) (rows : List Byte) (qx qy : Nat) :
    spriteHits vx vy (byte :: rows) qx qy = (rowHits vx vy byte qx qy || spriteHits vx (vy + 1) rows qx qy) := rfl

theorem spriteHits_iff {vx vy qx qy : Nat} {rows : List Byte} :
    spriteHits vx vy rows qx qy = true ↔
      ∃ row byte, rows[row]? = some byte ∧ rowHits vx (vy + row) byte qx qy = true := by
  simp only [spriteHits, List.any_eq_true, Prod.exists, List.mk_mem_zipIdx_iff_le_and_getElem?_sub]
  constructor
  · rintro ⟨byte, py, ⟨hle, hbyte⟩, hhit⟩
    exact ⟨py - vy, byte, hbyte, by rwa [Nat.add_sub_cancel' hle]⟩
  · rintro ⟨row, byte, hbyte, hhit⟩
    exact ⟨byte, vy + row, ⟨Nat.le_add_right _ _, by rwa [Nat.add_sub_cancel_left]⟩, hhit⟩

/-- Where one of fewer than 32 rows lands, the row above them does not: the rows of a sprite are distinct mod 32. -/
theorem rowHits_eq_false_of_spriteHits_below {vx py qx qy : Nat} {byte : Byte} {rows : List Byte}
    (hlen : rows.length < 32) (h : spriteHits vx (py + 1) rows qx qy = true) :
    rowHits vx py byte qx qy = false := by
  obtain ⟨row, _, hrow, hbelow⟩ := spriteHits_iff.1 h
  obtain ⟨hlt, -⟩ := List.getElem?_eq_some_iff.1 hrow
  obtain ⟨-, -, -, -, hqy⟩ := rowHits_iff.1 hbelow
  refine Bool.eq_false_iff.2 fun habove => ?_
  obtain ⟨-, -, -, -, hqy'⟩ := rowHits_iff.1 habove
  omega

/-- The sprite that DRW reads, `n` rows at `I` (45_display.md R171). -/
abbrev State.spriteRows (s : State) (n : Fin 16) : List Byte := s.readBytes (s.effAddr 0) n.val

theorem State.spriteRows_length_le (s : State) (n : Fin 16) : (s.spriteRows n).length ≤ 32 := by
  rw [State.readBytes_length]; omega

/-- The hits on a sprite read from memory are those of the loop-free form. -/
theorem spriteHits_spriteRows_iff {s : State} {n : Fin 16} {vx vy px py : Nat} (hpx : px < 64) (hpy : py < 32) :
    spriteHits vx vy (s.spriteRows n) px py = true ↔ SpriteCovers s vx vy n.val px py := by
  simp only [spriteHits_iff, rowHits_iff, State.readBytes_getElem?, SpriteCovers, Nat.mod_eq_of_lt hpx,
    Nat.mod_eq_of_lt hpy]
  constructor
  · rintro ⟨row, byte, hbyte, bit, hbit, hhit⟩
    obtain ⟨hrow, rfl⟩ := Option.ite_some_none_eq_some.1 hbyte
    exact ⟨row, bit, hrow, hbit, hhit⟩
  · rintro ⟨row, bit, hrow, hbit, hhit⟩
    exact ⟨row, _, if_pos hrow, bit, hbit, hhit⟩

/-! ## The rows of a sprite drawn one after the other (45_display.md R171) -/

/-- Some pixel of the grid is lit and hit: what the collision detector finds. -/
def HitsLit (fb : Framebuffer) (hits : Nat → Nat → Bool) : Prop :=
  ∃ qx qy, qx < 64 ∧ qy < 32 ∧ fb.pixel qx qy = true ∧ hits qx qy = true

theorem HitsLit.or_iff {fb : Framebuffer} {f g : Nat → Nat → Bool} :
    HitsLit fb (fun qx qy => f qx qy || g qx qy) ↔ HitsLit fb f ∨ HitsLit fb g := by
  simp only [HitsLit, Bool.or_eq_true, and_or_left, exists_or]

/-- The detector reads the pixels that are hit and no others. -/
theorem HitsLit.congr {fb fb' : Framebuffer} {hits : Nat → Nat → Bool}
    (h : ∀ qx qy, hits qx qy = true → fb.pixel qx qy = fb'.pixel qx qy) : HitsLit fb hits ↔ HitsLit fb' hits := by
  refine exists₂_congr fun qx qy => and_congr_right fun _ => and_congr_right fun _ => and_congr_left fun hhit => ?_
  rw [h qx qy hhit]

theorem Framebuffer.pixel_mod (fb : Framebuffer) (px py : Nat) :
    Framebuffer.pixel fb (px % 64) (py % 32) = Framebuffer.pixel fb px py := by
  simp [Framebuffer.pixel]

theorem blitRow_collision_iff {vx py : Nat} {byte : Byte} {b : Blit} :
    (blitRow vx py byte b).collision = true ↔ b.collision = true ∨ HitsLit b.fb (rowHits vx py byte) := by
  simp only [blitRow_collision, Bool.or_eq_true, List.any_eq_true, List.mem_range, Bool.and_eq_true]
  refine or_congr_right ⟨?_, ?_⟩
  · rintro ⟨bit, hbit, hone, hlit⟩
    exact ⟨(vx + bit) % 64, py % 32, Nat.mod_lt _ (by decide), Nat.mod_lt _ (by decide),
      (Framebuffer.pixel_mod _ _ _).trans hlit, rowHits_iff.2 ⟨bit, hbit, hone, by simp, by simp⟩⟩
  · rintro ⟨qx, qy, -, -, hlit, hhit⟩
    obtain ⟨bit, hbit, hone, hqx, hqy⟩ := rowHits_iff.1 hhit
    exact ⟨bit, hbit, hone, by rwa [← Framebuffer.pixel_mod, hqx, hqy, Framebuffer.pixel_mod]⟩

/-- One sprite row flips exactly the pixels it hits. -/
theorem blitRow_pixel_rowHits (vx py : Nat) (byte : Byte) (b : Blit) (qx qy : Nat) :
    (blitRow vx py byte b).fb.pixel qx qy = (b.fb.pixel qx qy ^^ rowHits vx py byte qx qy) :=
  blitRow_pixel vx py byte b qx qy

/-- A sprite of at most 32 rows flips exactly the pixels it hits. -/
theorem blitRows_pixel {vx py : Nat} {rows : List Byte} (hlen : rows.length ≤ 32) (b : Blit) (qx qy : Nat) :
    (blitRows vx py rows b).fb.pixel qx qy = (b.fb.pixel qx qy ^^ spriteHits vx py rows qx qy) := by
  induction rows generalizing py b with
  | nil => simp
  | cons byte rows ih =>
    have hlt : rows.length < 32 := hlen
    rw [blitRows_cons, ih hlt.le, blitRow_pixel_rowHits, spriteHits_cons]
    cases h : spriteHits vx (py + 1) rows qx qy with
    | false => simp
    | true => simp [rowHits_eq_false_of_spriteHits_below hlt h]

/-- A sprite of at most 32 rows collides exactly when it hits a pixel lit before the first row: the rows already drawn
have flipped no pixel that a later row hits. -/
theorem blitRows_collision_iff {vx py : Nat} {rows : List Byte} (hlen : rows.length ≤ 32) (b : Blit) :
    (blitRows vx py rows b).collision = true ↔ b.collision = true ∨ HitsLit b.fb (spriteHits vx py rows) := by
  induction rows generalizing py b with
  | nil => simp [HitsLit]
  | cons byte rows ih =>
    have hlt : rows.length < 32 := hlen
    have hrest : HitsLit (blitRow vx py byte b).fb (spriteHits vx (py + 1) rows)
        ↔ HitsLit b.fb (spriteHits vx (py + 1) rows) :=
      HitsLit.congr fun qx qy hhit => by
        rw [blitRow_pixel_rowHits, rowHits_eq_false_of_spriteHits_below hlt hhit, Bool.xor_false]
    have hor : HitsLit b.fb (spriteHits vx py (byte :: rows))
        ↔ HitsLit b.fb (rowHits vx py byte) ∨ HitsLit b.fb (spriteHits vx (py + 1) rows) := HitsLit.or_iff
    rw [blitRows_cons, ih hlt.le, blitRow_collision_iff, hrest, hor, or_assoc]

/-! ## A whole draw -/

theorem flagByte_eq_one_iff {b : Bool} : flagByte b = 0x01 ↔ b = true := by
  cases b <;> decide

theorem State.draw_pixel {s : State} {vx vy : Byte} {rows : List Byte} (hlen : rows.length ≤ 32) (qx qy : Nat) :
    (s.draw vx vy rows).fb.pixel qx qy
      = (s.fb.pixel qx qy ^^ spriteHits vx.toNat vy.toNat rows qx qy) := by
  rw [State.draw_fb, blitRows_pixel hlen]

theorem State.draw_reg15_eq_one_iff {s : State} {vx vy : Byte} {rows : List Byte} (hlen : rows.length ≤ 32) :
    (s.draw vx vy rows).reg 15 = 0x01 ↔ HitsLit s.fb (spriteHits vx.toNat vy.toNat rows) := by
  rw [State.reg_draw, if_pos rfl, flagByte_eq_one_iff, blitRows_collision_iff hlen]
  exact or_iff_right Bool.false_ne_true

/-- DRW whose rows are all inside the space, or with no row to read (45_display.md R171; 92_eei_decisions.md D28). -/
theorem exec_drw_of_fits {s : State} {x y : RegIdx} {n : Fin 16} (h : n.val = 0 ∨ s.I.toNat + n.val - 1 ≤ 0xFFF) :
    exec (.drw x y n) s = .next (s.draw (s.reg x) (s.reg y) (s.spriteRows n)) := by
  refine guardData_of_le ?_
  split_ifs with hn
  · omega
  · rw [State.effAddr]; omega

theorem exec_drw_of_past {s : State} {x y : RegIdx} {n : Fin 16} (hn : 1 ≤ n.val)
    (h : 0xFFF < s.I.toNat + n.val - 1) : exec (.drw x y n) s = .fault (.outOfBounds .data) := by
  refine guardData_of_lt ?_
  rw [if_neg (by omega), State.effAddr]; omega

/-! ## CLS and DRW (45_display.md R170, R171, R173) -/

/-- Settles O36: the framebuffer alone is written, with every pixel 0. -/
theorem clsResult : Obligations.ClsResult :=
  ⟨rfl, fun s => ⟨_, rfl, Framebuffer.pixel_clear, rfl, (s.setFb_frame _).thenAdvance⟩⟩

/-- Settles O37: past the check DRW is the loop, which flips the pixels the sprite hits and collides on a lit one. -/
theorem drwXorsTheSprite : Obligations.DrwXorsTheSprite := by
  refine fun x y n => ⟨decodeWord_encode (i := .drw x y n) rfl, fun s =>
    ⟨fun ⟨hn, hpast⟩ => exec_drw_of_past hn hpast, fun h => ?_⟩⟩
  have hlen := s.spriteRows_length_le n
  refine ⟨_, exec_drw_of_fits h, fun px py hpx hpy => ?_, ?_, ?_, fun j hj => ?_, rfl, s.draw_frame _ _ _⟩
  · rw [State.draw_pixel hlen, ← spriteHits_spriteRows_iff hpx hpy]
    cases s.fb.pixel px py <;> simp
  · rw [State.reg_draw, if_pos rfl]
    exact (flagByte_eq_zero_or_one _).symm
  · rw [State.draw_reg15_eq_one_iff hlen]
    exact exists₂_congr fun px py => and_congr_right fun hpx => and_congr_right fun hpy => and_congr_right fun _ =>
      spriteHits_spriteRows_iff hpx hpy
  · rw [State.reg_draw, if_neg hj]

/-- DRW again, from the state the first one left: it reads the same rows, and the same coordinates when neither register
is VF (45_display.md R173). -/
theorem exec_drw_after_draw {s : State} {x y : RegIdx} {n : Fin 16} {vx vy : Byte} {rows : List Byte} (hx : x ≠ 15)
    (hy : y ≠ 15) (h : n.val = 0 ∨ s.I.toNat + n.val - 1 ≤ 0xFFF) :
    exec (.drw x y n) (s.draw vx vy rows)
      = .next ((s.draw vx vy rows).draw (s.reg x) (s.reg y) (s.spriteRows n)) := by
  have hrows : (s.draw vx vy rows).spriteRows n = s.spriteRows n := rfl
  rw [exec_drw_of_fits (s := s.draw vx vy rows) h, hrows, State.reg_draw, if_neg hx, State.reg_draw, if_neg hy]

/-- Settles O38: the second draw hits the pixels of the first, so it flips each of them back, and it collides where the
first has lit one. -/
theorem drwTwiceRestores : Obligations.DrwTwiceRestores := by
  intro s x y n hx hy h
  have hlen := s.spriteRows_length_le n
  refine ⟨_, _, exec_drw_of_fits h, exec_drw_after_draw hx hy h, fun px py => ?_, ?_⟩
  · rw [State.draw_pixel hlen, State.draw_pixel hlen, Bool.xor_assoc, Bool.xor_self, Bool.xor_false]
  · rw [State.draw_reg15_eq_one_iff hlen]
    refine exists₂_congr fun px py => and_congr_right fun hpx => and_congr_right fun hpy => ?_
    rw [State.draw_pixel hlen, ← spriteHits_spriteRows_iff hpx hpy]
    cases s.fb.pixel px py <;> simp

end Sys2Proof.Machine
end

section
/-! SUPPORT. The skips on a key, the wait for a key and the loads to and from the timers
(spec/46_keypad_timers.md R180 to R185). -/

namespace Sys2Proof.Machine

/-! ## The key a byte names (46_keypad_timers.md R180, R181) -/

theorem State.keyAt?_of_eq {s : State} {v : Byte} {k : Fin 16} (h : v.toNat = k.val) :
    s.keyAt? v = some s.key[k] := by
  have hlt : v.toNat < 16 := h ▸ k.isLt
  obtain rfl : k = ⟨v.toNat, hlt⟩ := Fin.ext h.symm
  exact dif_pos hlt

theorem State.keyAt?_of_gt {s : State} {v : Byte} (h : 15 < v.toNat) : s.keyAt? v = none :=
  dif_neg (Nat.not_lt.2 h)

theorem execSkp_of_keyAt? {x : RegIdx} {s : State} {down : Bool} (h : s.keyAt? (s.reg x) = some down) :
    execSkp x s = .next (s.skipIf down) := by
  rw [execSkp, h]

theorem execSknp_of_keyAt? {x : RegIdx} {s : State} {down : Bool} (h : s.keyAt? (s.reg x) = some down) :
    execSknp x s = .next (s.skipIf (!down)) := by
  rw [execSknp, h]

theorem execSkp_of_gt {x : RegIdx} {s : State} (h : 15 < (s.reg x).toNat) :
    execSkp x s = .fault (.outOfBounds .keyIndex) := by
  rw [execSkp, State.keyAt?_of_gt h, raise]

theorem execSknp_of_gt {x : RegIdx} {s : State} (h : 15 < (s.reg x).toNat) :
    execSknp x s = .fault (.outOfBounds .keyIndex) := by
  rw [execSknp, State.keyAt?_of_gt h, raise]

/-- Settles O39: below 16 both complete by the skip convention, with the flag of the key named by `V[x]` and its
negation. -/
theorem keySkipResult : Obligations.KeySkipResult := by
  refine fun x => ⟨decodeWord_encode (i := .skp x) rfl, decodeWord_encode (i := .sknp x) rfl,
    fun s => ⟨fun hpast => ⟨execSkp_of_gt hpast, execSknp_of_gt hpast⟩, fun k hk => ?_⟩⟩
  have hkey : s.keyAt? (s.reg x) = some s.key[k] := State.keyAt?_of_eq hk
  exact ⟨exec_of_skipIf (i := .skp x) (execSkp_of_keyAt? hkey) Iff.rfl,
    exec_of_skipIf (i := .sknp x) (execSknp_of_keyAt? hkey) (iff_of_eq (Bool.not_eq_true' _))⟩

/-! ## The wait for a key (46_keypad_timers.md R182) -/

theorem keyByte_toNat (k : Fin 16) : (keyByte k).toNat = k.val := byte_toNat_of_lt (by omega)

theorem execLdVxK_of_none_down {x : RegIdx} {s : State} (h : ∀ k : Fin 16, s.key[k] = false) :
    execLdVxK x s = .next s := by
  rw [execLdVxK, firstPressed_eq_none.2 h]

theorem execLdVxK_of_lowest_down {x : RegIdx} {s : State} {k : Fin 16} (hk : s.key[k] = true)
    (hlow : ∀ j : Fin 16, j < k → s.key[j] = false) :
    execLdVxK x s = .next (s.setReg x (keyByte k)).advance := by
  rw [execLdVxK, firstPressed_eq_some.2 ⟨hk, hlow⟩]

/-- Settles O40: the two cases of the scan, and the number of the lowest key down fits a byte. -/
theorem keyWaitResult : Obligations.KeyWaitResult := by
  refine fun x => ⟨decodeWord_encode (i := .ldVxK x) rfl, fun s => ⟨execLdVxK_of_none_down, fun k hk hlow => ?_⟩⟩
  obtain ⟨t, hexec, hreg, hrest⟩ := exec_of_setReg (i := .ldVxK x) (execLdVxK_of_lowest_down hk hlow)
  refine ⟨t, hexec, ?_, fun j hj => ?_, hrest⟩
  · rw [hreg, if_pos rfl, keyByte_toNat]
  · rw [hreg, if_neg hj]

/-! ## The timers (46_keypad_timers.md R183 to R185) -/

/-- One tick subtracts 1 and stops at 0, as the difference of naturals does (60_exceptions.md R210). -/
theorem countDown_toNat (v : Byte) : (countDown v).toNat = v.toNat - 1 := by
  rw [countDown]
  split_ifs with hpos
  · exact BitVec.toNat_sub_of_le (x := v) (y := 1) hpos
  · omega

theorem soundActive_iff (s : State) : soundActive s = true ↔ 0 < s.ST.toNat := decide_eq_true_iff

/-- Settles O41: each completes with one register or timer written; the next tick and the sound query read the loaded
value. -/
theorem timerAccessResult : Obligations.TimerAccessResult := by
  refine fun x => ⟨decodeWord_encode (i := .ldVxDt x) rfl, decodeWord_encode (i := .ldDtVx x) rfl,
    decodeWord_encode (i := .ldStVx x) rfl, fun s => ⟨exec_of_setReg (i := .ldVxDt x) rfl, ?_, ?_⟩⟩
  · exact ⟨_, rfl, rfl, countDown_toNat (s.reg x), rfl, (s.setDT_frame _).thenAdvance⟩
  · exact ⟨_, rfl, rfl, soundActive_iff _, rfl, (s.setST_frame _).thenAdvance⟩

end Sys2Proof.Machine
end

section
/-! SUPPORT. When an instruction and a cycle end with an error, on what it depends and that it stays
(spec/60_exceptions.md R200 to R208). -/

namespace Sys2Proof.Machine

variable {i : Instr} {s t : State} {r : Fault}

/-! ## The error table (60_exceptions.md R202) -/

/-- A result is what an entry of the error table says: the error of the cause it gives, or a next state if it gives
none. -/
def MeetsTable (entry : Option Cause) (a : Result) : Prop :=
  (∀ c, entry = some c → a = .fault (.outOfBounds c)) ∧ (entry = none → ∃ t, a = .next t)

/-- A row of the table with a condition: the error where the condition holds, a next state where it does not. -/
theorem MeetsTable.of_ite {p : Prop} [Decidable p] {c : Cause} {a : Result} (hp : p → a = .fault (.outOfBounds c))
    (hn : ¬p → ∃ t, a = .next t) : MeetsTable (if p then some c else none) a := by
  by_cases h : p
  · rw [if_pos h]
    exact ⟨fun _ e => Option.some.inj e ▸ hp h, nofun⟩
  · rw [if_neg h]
    exact ⟨nofun, fun _ => hn h⟩

theorem MeetsTable.of_none {a : Result} (h : ∃ t, a = .next t) : MeetsTable none a := ⟨nofun, fun _ => h⟩

/-- A store or load guarded by the highest address it touches. -/
theorem MeetsTable.of_guardData (highest : Nat) (t : State) :
    MeetsTable (if 0xFFF < highest then some .data else none) (guardData highest (.next t)) :=
  .of_ite guardData_of_lt fun h => ⟨t, guardData_of_le (Nat.not_lt.1 h)⟩

/-- A byte up to 15 names a key. -/
theorem State.exists_keyAt?_of_le {v : Byte} (s : State) (h : v.toNat ≤ 15) : ∃ down, s.keyAt? v = some down :=
  ⟨_, State.keyAt?_of_eq (k := ⟨v.toNat, by omega⟩) rfl⟩

/-- The wait for a key completes, with a key down or none. -/
theorem execLdVxK_completes (x : RegIdx) (s : State) : ∃ t, execLdVxK x s = .next t := by
  unfold execLdVxK
  cases firstPressed s.key
  · exact ⟨_, rfl⟩
  · exact ⟨_, rfl⟩

theorem exec_meetsTable (i : Instr) (s : State) : MeetsTable (errorOf i s) (exec i s) := by
  cases i with
  | call nnn => exact .of_ite execCall_of_full fun h => ⟨_, execCall_of_lt (by omega)⟩
  | ret => exact .of_ite execRet_of_empty fun h => ⟨_, execRet_of_pos (by omega)⟩
  | drw x y n =>
    exact .of_ite (fun ⟨hn, hpast⟩ => exec_drw_of_past hn hpast) fun h => ⟨_, exec_drw_of_fits (by omega)⟩
  | ldB | ldMemVx | ldVxMem => exact .of_guardData _ _
  | skp x =>
    refine .of_ite execSkp_of_gt fun h => ?_
    obtain ⟨down, hdown⟩ := s.exists_keyAt?_of_le (Nat.not_lt.1 h)
    exact ⟨_, execSkp_of_keyAt? hdown⟩
  | sknp x =>
    refine .of_ite execSknp_of_gt fun h => ?_
    obtain ⟨down, hdown⟩ := s.exists_keyAt?_of_le (Nat.not_lt.1 h)
    exact ⟨_, execSknp_of_keyAt? hdown⟩
  | ldVxK x => exact .of_none (execLdVxK_completes x s)
  | _ => exact .of_none ⟨_, rfl⟩

/-- Settles O9: row by row, the eight meanings with a check end with its error exactly where it fails. -/
theorem errorTableIsExact : Obligations.ErrorTableIsExact := exec_meetsTable

/-- An instruction ends with the error of its entry of the table and with no other. -/
theorem exec_eq_fault_iff : exec i s = .fault r ↔ ∃ c, errorOf i s = some c ∧ r = .outOfBounds c := by
  obtain ⟨hfault, hnext⟩ := exec_meetsTable i s
  cases he : errorOf i s with
  | some c => simp [hfault c he, eq_comm]
  | none =>
    obtain ⟨t, ht⟩ := hnext he
    simp [ht]

/-! ## What errors depend on (60_exceptions.md R208) -/

/-- Two states agree on all that an error depends on: `V`, `I`, `pc`, `sp` and every byte of memory. -/
abbrev AgreeOnErrorParts (s t : State) : Prop := UnchangedBut [.stack, .DT, .ST, .fb, .key, .cfg, .draws] s t

/-- The fetch reads `pc` and memory. -/
theorem AgreeOnErrorParts.fetchInstr_eq (h : AgreeOnErrorParts s t) : t.fetchInstr = s.fetchInstr := by
  have hpc : t.pc = s.pc := h .pc (by decide)
  have hmem : ∀ a, t.byteAt a = s.byteAt a := h .mem (by decide)
  rw [State.fetchInstr_eq, State.fetchInstr_eq, hpc, hmem, hmem]

/-- The table reads `sp`, `I` and `V`. -/
theorem AgreeOnErrorParts.errorOf_eq (h : AgreeOnErrorParts s t) (i : Instr) : errorOf i t = errorOf i s := by
  have hreg : ∀ j, t.reg j = s.reg j := h .V (by decide)
  have hI : t.I = s.I := h .I (by decide)
  have hsp : t.sp = s.sp := h .sp (by decide)
  cases i with
  | call | ret => simp only [errorOf, hsp]
  | drw | ldB | ldMemVx | ldVxMem => simp only [errorOf, hI]
  | skp | sknp => simp only [errorOf, hreg]
  | _ => rfl

theorem AgreeOnErrorParts.step_eq_fault_iff (h : AgreeOnErrorParts s t) : step s = .fault r ↔ step t = .fault r := by
  refine step_rel (R := fun a b => a = .fault r ↔ b = .fault r) h.fetchInstr_eq (fun _ => .rfl) fun i => ?_
  rw [exec_eq_fault_iff, exec_eq_fault_iff, h.errorOf_eq i]

/-- Settles O11: the same fetch, and the same entry of the error table for the instruction fetched. -/
theorem errorsDependOnFewParts : Obligations.ErrorsDependOnFewParts := fun _ _ _ => AgreeOnErrorParts.step_eq_fault_iff

theorem tickTimers_frame (s : State) : UnchangedBut [.DT, .ST] s (tickTimers s) :=
  (s.setDT_frame _).append (State.setST_frame _ _)

/-- Settles O12: the cycle keeps the state, and the other two write only parts on which no error depends. -/
theorem errorsPersist : Obligations.ErrorsPersist := by
  intro s r k b h
  have hcycle : (operate .cycle s).2 = s := congrArg (fun a => (settle s a).2) h
  have hkey : AgreeOnErrorParts s (setKey k b s) := (s.setKeyFlag_frame k b).mono (by simp)
  have htick : AgreeOnErrorParts s (tickTimers s) := (tickTimers_frame s).mono (by simp)
  refine ⟨?_, hkey.step_eq_fault_iff.1 h, htick.step_eq_fault_iff.1 h⟩
  rw [hcycle]
  exact h

/-! ## Which operation fails how (60_exceptions.md R200, R202, R203) -/

theorem settle_eq_error {a : Result} (h : settle s a = (.status (.error r), t)) : a = .fault r ∧ t = s := by
  cases a with
  | fault f => cases h; exact ⟨rfl, rfl⟩
  | next u | refused f => cases h

/-- An operation that answers an error is a cycle or a load, and keeps the state. -/
theorem operate_eq_error {op : HostOp} (h : operate op s = (.status (.error r), t)) :
    t = s ∧ ((op = .cycle ∧ step s = .fault r) ∨
      ∃ bytes, op = .loadProgram bytes ∧ loadProgram bytes s = .fault r) := by
  cases op with
  | cycle =>
    obtain ⟨hstep, hts⟩ := settle_eq_error h
    exact ⟨hts, .inl ⟨rfl, hstep⟩⟩
  | loadProgram bytes =>
    obtain ⟨hload, hts⟩ := settle_eq_error h
    exact ⟨hts, .inr ⟨bytes, rfl, hload⟩⟩
  | new | reset | setKey | tickTimers | framebuffer | soundActive => cases h

/-- Settles O50: both operations that can fail keep the state. -/
theorem errorsChangeNothing : Obligations.ErrorsChangeNothing := fun _ _ _ _ h => (operate_eq_error h).1

/-- No row of the error table gives the cause of `load_program`. -/
theorem errorOf_ne_image (i : Instr) (s : State) : errorOf i s ≠ some .image := by
  cases i with
  | call | ret | drw | ldB | ldMemVx | ldVxMem | skp | sknp =>
    rw [errorOf]
    split_ifs <;> nofun
  | _ => nofun

theorem step_ne_image (s : State) : step s ≠ .fault (.outOfBounds .image) := by
  obtain ⟨-, h⟩ | ⟨-, ⟨i, -, h⟩ | ⟨e, -, h⟩⟩ := step_cases s
  · rw [h]; nofun
  · rw [h, Ne, exec_eq_fault_iff]
    rintro ⟨c, hc, e⟩
    cases e
    exact errorOf_ne_image i s hc
  · rw [h]; nofun

theorem loadProgram_eq_fault {bytes : List Byte} (h : loadProgram bytes s = .fault r) : r = .outOfBounds .image := by
  unfold loadProgram at h
  split at h <;> cases h
  rfl

theorem loadProgram_ne_refused (bytes : List Byte) (s : State) (e : Refusal) : loadProgram bytes s ≠ .refused e := by
  unfold loadProgram
  split <;> nofun

theorem settle_ne_noMeaning {a : Result} (h : ∀ e, a ≠ .refused e) (e : Refusal) :
    (settle s a).1 ≠ .status (.noMeaning e) := by
  cases a with
  | refused f => exact absurd rfl (h f)
  | next u | fault f => nofun

/-- Settles O51: a cycle fails with an error of the fetch or of the table, a load with its own, and neither is
refused. -/
theorem whichOperationFailsHow : Obligations.WhichOperationFailsHow := by
  refine ⟨fun op s t r h => ?_, fun op s e => ?_⟩
  · obtain ⟨-, ⟨rfl, hstep⟩ | ⟨bytes, rfl, hload⟩⟩ := operate_eq_error h
    · exact .inl ⟨rfl, fun hr => step_ne_image s (hr ▸ hstep)⟩
    · exact .inr ⟨bytes, rfl, loadProgram_eq_fault hload⟩
  · cases op with
    | cycle => exact settle_ne_noMeaning (nothingIsRefused.2 s) e
    | loadProgram bytes => exact settle_ne_noMeaning (loadProgram_ne_refused bytes s) e
    | new | reset | setKey | tickTimers | framebuffer | soundActive => nofun

end Sys2Proof.Machine
end

section
/-! SUPPORT. What each host operation leaves unchanged, and the ports of the timers, the keys, the sound and the
framebuffer (spec/60_exceptions.md R210 to R213). -/

namespace Sys2Proof.Machine

variable {s t : State}

/-! ## The write table of the host operations -/

/-- The parts of the state a host operation may write; a cycle writes what the instruction it fetches may write. -/
def HostOp.mayWrite (op : HostOp) (s : State) : List Field :=
  match op with
  | .new | .reset => [.V, .I, .pc, .sp, .stack, .DT, .ST, .mem, .fb, .key]
  | .loadProgram _ => [.mem]
  | .setKey _ _ => [.key]
  | .cycle =>
    match s.fetchInstr with
    | .ok i => writesOf i
    | .error _ => []
  | .tickTimers => [.DT, .ST]
  | .framebuffer | .soundActive => []

theorem State.doReset_frame (s : State) :
    UnchangedBut [.V, .I, .pc, .sp, .stack, .DT, .ST, .mem, .fb, .key] s s.doReset := by
  intro f hf
  cases f with
  | cfg | draws => rfl
  | _ => exact absurd hf (by decide)

theorem loadProgram_frame {bytes : List Byte} (h : loadProgram bytes s = .next t) : UnchangedBut [.mem] s t := by
  unfold loadProgram at h
  split at h <;> cases h
  exact s.writeBytes_frame 0x200 bytes

theorem step_frame (h : step s = .next t) : UnchangedBut (HostOp.cycle.mayWrite s) s t := by
  obtain ⟨i, hi, ht⟩ := step_eq_next h
  simp only [HostOp.mayWrite, hi]
  exact exec_frame ht

/-- Every host operation, with an error or without, stays inside its entry of the write table. -/
theorem operate_frame (op : HostOp) (s : State) : UnchangedBut (op.mayWrite s) s (operate op s).2 := by
  cases op with
  | new | reset => exact s.doReset_frame
  | loadProgram bytes => exact settle_keeps (.refl _ s) fun _ => loadProgram_frame
  | setKey k b => exact s.setKeyFlag_frame k b
  | cycle => exact settle_keeps (.refl _ s) fun _ => step_frame
  | tickTimers => exact tickTimers_frame s
  | framebuffer | soundActive => exact .refl _ s

/-- A cycle leaves alone what the instruction it fetches may not write. -/
theorem not_mem_mayWrite_cycle {f : Field} (h : ∀ i, s.fetchInstr = .ok i → f ∉ writesOf i) :
    f ∉ HostOp.cycle.mayWrite s := by
  rw [HostOp.mayWrite]
  cases hi : s.fetchInstr with
  | ok i => exact h i hi
  | error r => exact List.not_mem_nil

/-- Apart from memory and the keys, an operation other than `new` and `reset` writes through a tick or a cycle only. -/
theorem not_mem_mayWrite {f : Field} {op : HostOp} (hmem : f ≠ .mem) (hkey : f ≠ .key) (hnew : op ≠ .new)
    (hreset : op ≠ .reset) (htick : op = .tickTimers → f ∉ [.DT, .ST])
    (hcycle : op = .cycle → ∀ i, s.fetchInstr = .ok i → f ∉ writesOf i) : f ∉ op.mayWrite s := by
  cases op with
  | new => exact absurd rfl hnew
  | reset => exact absurd rfl hreset
  | loadProgram bytes => exact fun hf => hmem (List.mem_singleton.1 hf)
  | setKey k b => exact fun hf => hkey (List.mem_singleton.1 hf)
  | cycle => exact not_mem_mayWrite_cycle (hcycle rfl)
  | tickTimers => exact htick rfl
  | framebuffer | soundActive => exact List.not_mem_nil

/-! ## The timers (60_exceptions.md R210) -/

theorem DT_mem_writesOf {i : Instr} (h : .DT ∈ writesOf i) : ∃ x, i = .ldDtVx x := by
  cases i with
  | ldDtVx x => exact ⟨x, rfl⟩
  | _ => simp [writesOf] at h

theorem ST_mem_writesOf {i : Instr} (h : .ST ∈ writesOf i) : ∃ x, i = .ldStVx x := by
  cases i with
  | ldStVx x => exact ⟨x, rfl⟩
  | _ => simp [writesOf] at h

/-- `n` ticks count each timer down by `n`, and no further than 0. -/
theorem serve_replicate_tickTimers (n : Nat) (s : State) :
    (serve (List.replicate n .tickTimers) s).DT.toNat = s.DT.toNat - n ∧
    (serve (List.replicate n .tickTimers) s).ST.toNat = s.ST.toNat - n := by
  induction n generalizing s with
  | zero => exact ⟨rfl, rfl⟩
  | succ n ih =>
    obtain ⟨hDT, hST⟩ := ih (tickTimers s)
    have hDT' : (tickTimers s).DT.toNat = s.DT.toNat - 1 := countDown_toNat s.DT
    have hST' : (tickTimers s).ST.toNat = s.ST.toNat - 1 := countDown_toNat s.ST
    exact ⟨hDT.trans (by omega), hST.trans (by omega)⟩

/-- Settles O42: a tick counts both timers down, and the write tables of the instructions and of the operations name
each timer only where the statement excepts it. -/
theorem tickTimersResult : Obligations.TickTimersResult := by
  refine ⟨fun s => ?_, fun s n => serve_replicate_tickTimers n s, fun i s t h => ⟨fun hi => ?_, fun hi => ?_⟩,
    fun op s htick hnew hreset => ⟨fun hc => ?_, fun hc => ?_⟩⟩
  · exact ⟨_, rfl, countDown_toNat s.DT, countDown_toNat s.ST, tickTimers_frame s⟩
  · exact exec_frame h .DT fun hmem => (DT_mem_writesOf hmem).elim hi
  · exact exec_frame h .ST fun hmem => (ST_mem_writesOf hmem).elim hi
  · refine operate_frame op s .DT ?_
    refine not_mem_mayWrite nofun nofun hnew hreset (absurd · htick) fun hop i hi hmem => ?_
    obtain ⟨x, rfl⟩ := DT_mem_writesOf hmem
    exact hc x hop hi
  · refine operate_frame op s .ST ?_
    refine not_mem_mayWrite nofun nofun hnew hreset (absurd · htick) fun hop i hi hmem => ?_
    obtain ⟨x, rfl⟩ := ST_mem_writesOf hmem
    exact hc x hop hi

/-! ## The sound port (60_exceptions.md R211) -/

/-- Settles O43: the query reads `ST`, which a tick takes from 1 to 0, Fx18 writes and a reset zeroes. -/
theorem soundActiveResult : Obligations.SoundActiveResult := by
  intro s
  refine ⟨⟨_, rfl, soundActive_iff s⟩, fun hone => ?_, fun x => ⟨_, rfl, ?_⟩, rfl⟩
  · have hzero : (tickTimers s).ST.toNat = 0 := (countDown_toNat s.ST).trans (by rw [hone])
    rw [← Bool.not_eq_true, soundActive_iff, hzero]
    exact Nat.lt_irrefl 0
  · rw [soundActive_iff, Nat.pos_iff_ne_zero]
    exact BitVec.toNat_ne_iff_ne (y := 0)

/-! ## The keys (60_exceptions.md R212) -/

/-- Settles O44: the named flag is the one entry set. -/
theorem setKeyResult : Obligations.SetKeyResult := by
  intro s k b
  refine ⟨_, rfl, fun j => ?_, s.setKeyFlag_frame k b⟩
  simp only [setKey, State.setKeyFlag_key, Fin.getElem_fin, Vector.getElem_set, Fin.ext_iff, eq_comm]

/-! ## The framebuffer port (60_exceptions.md R213) -/

theorem framebuffer_getElem? {s : State} {px py : Nat} (hpx : px < 64) (hpy : py < 32) :
    (framebuffer s)[px + 64 * py]? = some (s.fb.pixel px py) := by
  have hrange : px + 64 * py < 2048 := by omega
  have hcol : (px + 64 * py) % 64 = px := by omega
  have hrow : (px + 64 * py) / 64 = py := by omega
  rw [framebuffer, List.getElem?_map, List.getElem?_range hrange, Option.map_some, hcol, hrow]

/-- Settles O45: the query lists the pixels row by row, and the write table says who writes one. -/
theorem framebufferPort : Obligations.FramebufferPort := by
  refine ⟨fun s => ⟨_, rfl, ?_, fun px py => framebuffer_getElem?⟩, fun op s hcycle hnew hreset => ?_⟩
  · rw [framebuffer, List.length_map, List.length_range]
  · refine operate_frame op s .fb ?_
    exact not_mem_mayWrite nofun nofun hnew hreset (fun _ => by decide) (absurd · hcycle)

end Sys2Proof.Machine
end

section
/-! SUPPORT. The halted states, which every cycle keeps, what `load_program` and `reset` bring about, and the stall
right after a reset (spec/70_reset_and_hazards.md R230 to R242). -/

namespace Sys2Proof.Machine

variable {s t : State}

/-! ## Halted states (70_reset_and_hazards.md R242) -/

theorem State.halted_iff :
    s.halted = true ↔ s.pc.toNat ≤ 0xFFE ∧ s.byteAt s.pc.toNat = 0 ∧ s.byteAt (s.pc.toNat + 1) = 0 := by
  simp only [State.halted, Bool.and_eq_true, decide_eq_true_iff, beq_iff_eq, and_assoc]

/-- The word at `pc` of a halted state is the halt sentinel, so a cycle stalls. -/
theorem step_of_halted (h : s.halted = true) : step s = .next s := by
  obtain ⟨hpc, hhi, hlo⟩ := State.halted_iff.1 h
  have hword : s.wordAtPc = 0x0000#16 := by
    rw [State.wordAtPc, hhi, hlo]
    rfl
  exact step_of_wordAtPc_eq_zero (by omega) hword

/-- What writes neither `pc` nor memory cannot end the stall. -/
theorem UnchangedBut.halted {fs : List Field} (h : UnchangedBut fs s t) (hpc : .pc ∉ fs) (hmem : .mem ∉ fs)
    (hs : s.halted = true) : t.halted = true := by
  have hpc' : t.pc = s.pc := h .pc hpc
  have hmem' : ∀ a, t.byteAt a = s.byteAt a := h .mem hmem
  rw [State.halted_iff, hpc', hmem', hmem']
  exact State.halted_iff.1 hs

/-- Settles O14: a halted state stalls, and the other two operations write neither `pc` nor memory. -/
theorem haltedStaysHalted : Obligations.HaltedStaysHalted := fun s k b h =>
  ⟨step_of_halted h, (s.setKeyFlag_frame k b).halted (by decide) (by decide) h,
    (tickTimers_frame s).halted (by decide) (by decide) h⟩

/-! ## `load_program` (70_reset_and_hazards.md R233) -/

theorem loadProgram_of_lt {bytes : List Byte} (h : 0xE00 < bytes.length) :
    loadProgram bytes s = .fault (.outOfBounds .image) := if_pos h

theorem loadProgram_of_le {bytes : List Byte} (h : bytes.length ≤ 0xE00) :
    loadProgram bytes s = .next (s.writeBytes 0x200 bytes) := if_neg (Nat.not_lt.2 h)

/-- Settles O46: an image that fits ends at or below `0xFFF`, so every byte of it is stored and no other address is
written. -/
theorem loadProgramResult : Obligations.LoadProgramResult := by
  intro s bytes
  refine ⟨fun hlong => congrArg (settle s) (loadProgram_of_lt hlong), fun hfits =>
    ⟨_, congrArg (settle s) (loadProgram_of_le hfits), fun k hk => ?_, fun a ha => ?_, s.writeBytes_frame 0x200 bytes⟩⟩
  · rw [State.byteAt_writeBytes, if_pos (by omega), Nat.add_sub_cancel_left, List.getD_eq_getElem _ _ hk]
  · rw [State.byteAt_writeBytes, if_neg (by omega)]

/-! ## `reset` and `new` (70_reset_and_hazards.md R230, R231, R235) -/

/-- Settles O48: both operations are `State.doReset`. -/
theorem resetOperation : Obligations.ResetOperation := fun s =>
  ⟨s.doReset, rfl, rfl, s.doReset_resetValues, rfl, rfl⟩

/-- The reset values put `pc` at `0x200`, where both bytes are 0. -/
theorem ResetValues.halted (h : ResetValues s) : s.halted = true := by
  obtain ⟨-, -, hpc, -, -, -, -, -, -, hzero, -⟩ := h
  rw [State.halted_iff, hpc]
  exact ⟨by decide, hzero 0x200 (by decide), hzero 0x201 (by decide)⟩

/-- Settles O49: a state with the reset values is halted. -/
theorem resetThenCycleStalls : Obligations.ResetThenCycleStalls :=
  ⟨step_of_halted resetStateValues.halted,
    fun s => congrArg (settle s.doReset) (step_of_halted s.doReset_resetValues.halted)⟩

end Sys2Proof.Machine
end
